-- ==== Sys2Proof/Word.lean ====
section
/-! DEFINITION. The widths of `00_scope.md` R8 as names, and nothing else. Bit 0 is the least significant bit of every value (R11). -/

namespace Sys2Proof

/-- A 16-bit half pattern (R28). Every one of the 65,536 patterns is a valid operand and a possible result. -/
abbrev Half := BitVec 16

/-- A 32-bit single pattern (R29). -/
abbrev Single := BitVec 32

/-- The 4-bit operation code (R8, R62). -/
abbrev OpCode := BitVec 4

/-- The 4-bit sign selector, two's complement (R8, R65). -/
abbrev SignSel := BitVec 4

/-- The 32-bit operand bus and the 32-bit result bus (R8, R30). -/
abbrev Bus := BitVec 32

/-- The 40-bit request word `REQ` (R60). -/
abbrev RequestWord := BitVec 40

/-- The 33-bit response word `RSP` (R60). -/
abbrev ResponseWord := BitVec 33

end Sys2Proof
end

