-- ==== Sys2Proof/Syntax.lean ====
section
/-! DEFINITION. The instruction set: one constructor per row of `spec/opcode_table.json` (`30_encoding.md` R62, R67). -/

namespace Sys2Proof

/-- One request, its operation code turned into a constructor (R62). Every constructor carries the two other fields of the request
format whole (R60), the bits its operation ignores among them (R64, R65): the widths are in the types, so there is no ill-formed
instruction (R67: no combination of field values makes a legal operation code illegal). -/
inductive Instr where
  /-- `op = 0x0`, half to single (R100). -/
  | h2s (sgn : SignSel) (a : Bus)
  /-- `op = 0x1`, single to half (R120). -/
  | s2h (sgn : SignSel) (a : Bus)
  /-- `op = 0x2`, construct from raw bits (R170). -/
  | frombits (sgn : SignSel) (a : Bus)
  /-- `op = 0x3` (R150). -/
  | isnan (sgn : SignSel) (a : Bus)
  /-- `op = 0x4`, the one predicate that reads `sgn` (R151). -/
  | isinf (sgn : SignSel) (a : Bus)
  /-- `op = 0x5` (R152). -/
  | isfinite (sgn : SignSel) (a : Bus)
  /-- `op = 0x6` (R153). -/
  | isnormal (sgn : SignSel) (a : Bus)
  /-- `op = 0x7` (R154). -/
  | signbit (sgn : SignSel) (a : Bus)
  /-- `op = 0x8`, all predicates at once (R155). -/
  | classify (sgn : SignSel) (a : Bus)
  /-- `op = 0x9`, the canonical NaN (R172). -/
  | nan (sgn : SignSel) (a : Bus)
  /-- `op = 0xA`, signed infinity (R173). -/
  | inf (sgn : SignSel) (a : Bus)
  /-- `op = 0xB`, reserved (R67). -/
  | reservedB (sgn : SignSel) (a : Bus)
  /-- `op = 0xC`, reserved (R67). -/
  | reservedC (sgn : SignSel) (a : Bus)
  /-- `op = 0xD`, reserved (R67). -/
  | reservedD (sgn : SignSel) (a : Bus)
  /-- `op = 0xE`, reserved (R67). -/
  | reservedE (sgn : SignSel) (a : Bus)
  /-- `op = 0xF`, reserved (R67). -/
  | reservedF (sgn : SignSel) (a : Bus)
deriving DecidableEq, Repr

end Sys2Proof
end

