-- ==== Sys2Proof/Decode.lean ====
section
/-! DEFINITION. From a request to an instruction and back (`30_encoding.md` R60, R62, R68). -/

namespace Sys2Proof

/-- `REQ[39:36]` (R60). -/
def opField (w : RequestWord) : OpCode := w.extractLsb' 36 4

/-- `REQ[35:32]` (R60). -/
def sgnField (w : RequestWord) : SignSel := w.extractLsb' 32 4

/-- `REQ[31:0]` (R60). -/
def aField (w : RequestWord) : Bus := w.extractLsb' 0 32

/-- `REQ = {op, sgn, a}` (R60). -/
def requestWord (op : OpCode) (sgn : SignSel) (a : Bus) : RequestWord := op ++ sgn ++ a

/-- The rows of R62 and R67: the operation code alone selects the row. -/
def decodeFields (op : OpCode) (sgn : SignSel) (a : Bus) : Instr :=
  match op.toNat with
  | 0x0 => .h2s sgn a
  | 0x1 => .s2h sgn a
  | 0x2 => .frombits sgn a
  | 0x3 => .isnan sgn a
  | 0x4 => .isinf sgn a
  | 0x5 => .isfinite sgn a
  | 0x6 => .isnormal sgn a
  | 0x7 => .signbit sgn a
  | 0x8 => .classify sgn a
  | 0x9 => .nan sgn a
  | 0xA => .inf sgn a
  | 0xB => .reservedB sgn a
  | 0xC => .reservedC sgn a
  | 0xD => .reservedD sgn a
  | 0xE => .reservedE sgn a
  | _ => .reservedF sgn a

/-- R68: "A decoder reads `op = REQ[39:36]` and is done." Total: each of the `2^40` request words is one of the 16 rows (R61, R67). -/
def decode (w : RequestWord) : Instr := decodeFields (opField w) (sgnField w) (aField w)

/-- Why a string of bits is no request. -/
inductive DecodeError where
  /-- R68: there is one request length, 40 bits, and this many bits were given. -/
  | wrongLength (nbits : Nat)
deriving DecidableEq, Repr

/-- Decoding any number of bits whose value is `w`, the bits above `nbits` being zero. More than 40 bits are no request (R68); fewer are
completed with zeros at the top (DESIGN CHOICE, log entry 11). -/
def decodeBits (nbits w : Nat) : Except DecodeError Instr :=
  if nbits ≤ 40 then .ok (decode (BitVec.ofNat 40 (w % 2 ^ nbits))) else .error (.wrongLength nbits)

/-- What the decoder reads from an instruction whose bits are `w`, numbered as `spec/opcode_table.json` numbers them: bit `i` of the
table's `match` is bit `i` of `REQ` (R11, R62). -/
def decodeTableWord (nbits w : Nat) : Option Instr := (decodeBits nbits w).toOption

/-- The operation code of each row (R62, R67). -/
def Instr.op : Instr → OpCode
  | .h2s _ _ => 0x0
  | .s2h _ _ => 0x1
  | .frombits _ _ => 0x2
  | .isnan _ _ => 0x3
  | .isinf _ _ => 0x4
  | .isfinite _ _ => 0x5
  | .isnormal _ _ => 0x6
  | .signbit _ _ => 0x7
  | .classify _ _ => 0x8
  | .nan _ _ => 0x9
  | .inf _ _ => 0xA
  | .reservedB _ _ => 0xB
  | .reservedC _ _ => 0xC
  | .reservedD _ _ => 0xD
  | .reservedE _ _ => 0xE
  | .reservedF _ _ => 0xF

/-- The `sgn` field an instruction carries (R60). -/
def Instr.sgn : Instr → SignSel
  | .h2s sgn _ | .s2h sgn _ | .frombits sgn _ | .isnan sgn _ | .isinf sgn _ | .isfinite sgn _ | .isnormal sgn _
  | .signbit sgn _ | .classify sgn _ | .nan sgn _ | .inf sgn _ | .reservedB sgn _ | .reservedC sgn _
  | .reservedD sgn _ | .reservedE sgn _ | .reservedF sgn _ => sgn

/-- The `a` field an instruction carries (R60). -/
def Instr.a : Instr → Bus
  | .h2s _ a | .s2h _ a | .frombits _ a | .isnan _ a | .isinf _ a | .isfinite _ a | .isnormal _ a | .signbit _ a
  | .classify _ a | .nan _ a | .inf _ a | .reservedB _ a | .reservedC _ a | .reservedD _ a | .reservedE _ a
  | .reservedF _ a => a

/-- The request word of an instruction (R60, R62). -/
def encode (i : Instr) : RequestWord := requestWord i.op i.sgn i.a

end Sys2Proof
end

