-- ==== Sys2Proof/Config.lean ====
section
/-! DEFINITION. The two build-time parameters of `00_scope.md` R9. They are fixed when the block is built and no operation changes them
(R9, R33); State carries them so that every statement holds for every build (DESIGN CHOICE, log entry 3). The spec leaves no value open, so there is no free
value (`93_implementation_defined.md` section 1). -/

namespace Sys2Proof

/-- The parameters a block is built with (R9). -/
structure Config where
  /-- `CANON_NAN`: the pattern the NAN operation returns (R172). -/
  canonNan : Half
  /-- `NAN_EXPAND_FORCE_QUIET`: when set, H2S ORs bit 22 into every NaN result (R106). -/
  forceQuiet : Bool
deriving DecidableEq, Repr

/-- The defaults of R9: the document's literal `0x7FFF` (C3, D10) and the document's contract (C1, D9). -/
def Config.default : Config := { canonNan := 0x7FFF, forceQuiet := false }

end Sys2Proof
end

