-- ==== Sys2Proof/Machine/Program.lean ====
section
/-! DEFINITION. What the host holds: the requests of a program and the responses recorded (`30_encoding.md` R60, R69, R70). -/

namespace Sys2Proof.Machine

/-- The response to one transaction (R60): the two output ports. -/
structure Response where
  /-- 1 exactly when the operation code was reserved (R211). -/
  ill : BitVec 1
  /-- the result (R66) -/
  y : Bus
deriving DecidableEq, Repr

/-- Where the host takes the operand of a request from (R69, R70). -/
inductive OperandSource where
  /-- the 32 bits written in the program -/
  | lit (a : Bus)
  /-- `$i`: the `y` of the response numbered `i` of the same program, counted from 0, all 32 bits of it -/
  | result (i : Nat)
deriving DecidableEq, Repr

/-- One request of a program, as the host holds it before it presents it (R69). -/
structure ProgramItem where
  op : OpCode
  sgn : SignSel
  operand : OperandSource
deriving DecidableEq, Repr

/-- A program is a finite list of requests (R69). -/
abbrev Program := List ProgramItem

end Sys2Proof.Machine
end

