-- ==== Sys2Proof/Machine/State.lean ====
section
/-! DEFINITION. The state. The block itself stores nothing (`10_state.md` R20 to R27): what stands here is its ports (R30), the
parameters it was built with (R9), and what the HOST holds while it runs a program (`30_encoding.md` R69): the requests it has not
presented yet, the responses it has recorded, and the mark of a run that went wrong (`60_exceptions.md` R213). -/

namespace Sys2Proof.Machine

/-- The complete list of synchronous events (R212). -/
inductive Event where
  /-- `IllegalOp(op)`, raised by a request whose `op` is `0xB` to `0xF`, and by no other (R211). -/
  | illegalOp (op : OpCode)
deriving DecidableEq, Repr

/-- The machine, as plain data. -/
structure State where
  /-- the build-time parameters (R9); no step writes them (R33) -/
  cfg : Config
  /-- input port: the operation code of the transaction on the inputs (R30) -/
  op : OpCode
  /-- input port: the sign selector (R30) -/
  sgn : SignSel
  /-- input port: the operand (R30) -/
  a : Bus
  /-- output port: the result (R30) -/
  y : Bus
  /-- output port: 1 exactly when `op` is a reserved code (R30) -/
  ill : BitVec 1
  /-- the host's: the requests of its program not yet presented, in order (R69) -/
  pending : Program
  /-- the host's: the responses recorded, oldest first; `$i` is the `y` of number `i` (R69, R70) -/
  responses : List Response
  /-- the model's mark of R213: the first `IllegalOp` of the run, if it holds one -/
  runFault : Option Event
deriving DecidableEq, Repr

/-- Why a step stops. Both are faults of the HOST's program; the block itself has no way to stop (R69, R237). -/
inductive Fault where
  /-- Raised by `resolve`, when the request to be presented names with `$i` a response that is not recorded (R70 gives `$i` no other
  meaning). Safe: the spec gives such a program no run. -/
  | noSuchResponse (i : Nat)
  /-- Raised by `resolve`, when the request to be presented names with `$i` a response that has `ill = 1`. R213: "A model must not let
  a program depend on `y = 0` under `ill = 1`." Safe: the block would go on with 0. -/
  | dependsOnIllegalOp (i : Nat)
deriving DecidableEq, Repr

/-- Why an instruction has no meaning. -/
inductive Refusal where
  /-- Raised by an arm of `exec` whose instruction is not modelled; no arm of this model is. Safe. -/
  | notModelled (mnemonic : String)
deriving DecidableEq, Repr

/-- The machine before the host has presented anything. Nothing is stored, so nothing is reset (R33, R230): the parameters have their
built values (the defaults of R9), the host holds no request and no response. The inputs are the host's to drive (R230); the
zeros here are a DESIGN CHOICE (log entry 2), and the outputs are what R61 gives for them: H2S of `0x0000`. -/
def State.reset : State :=
  { cfg := Config.default
    op := 0x0, sgn := 0x0, a := 0x00000000
    y := 0x00000000, ill := 0
    pending := [], responses := [], runFault := none }

end Sys2Proof.Machine
end

