-- ==== Sys2Proof/Machine/Operands.lean ====
section
/-! DEFINITION. Operand assembly, the sign selector and result assembly (`30_encoding.md` R64, R65, R66), and what `$i` stands for
(R70). -/

namespace Sys2Proof.Machine

/-- The half operand `a[15:0]`; `a[31:16]` is ignored (R64, R42). -/
def halfOperand (a : Bus) : Half := a.extractLsb' 0 16

/-- The single operand `a[31:0]` (R64). -/
def singleOperand (a : Bus) : Single := a

/-- `signed(sgn) < 0` (R65). -/
def sgnNeg (sgn : SignSel) : Bool := sgn.getLsbD 3

/-- `signed(sgn) = 0` (R65). -/
def sgnZero (sgn : SignSel) : Bool := sgn == 0b0000#4

/-- `signed(sgn) > 0` (R65). -/
def sgnPos (sgn : SignSel) : Bool := !sgn.getLsbD 3 && sgn != 0#4

/-- A single result fills `y[31:0]` (R66). -/
def singleResult (f : Single) : Bus := f

/-- A half result is in `y[15:0]` with `y[31:16] = 0` (R66). -/
def halfResult (r : Half) : Bus := r.zeroExtend 32

/-- A Boolean result is in `y[0]` with `y[31:1] = 0`, 1 for true (R66). -/
def boolResult (b : Bool) : Bus := (BitVec.ofBool b).zeroExtend 32

/-- A CLASS result is in `y[6:0]` with `y[31:7] = 0` (R66). -/
def classResult (c : BitVec 7) : Bus := c.zeroExtend 32

/-- The response word `RSP = {ill, y}` (R60). -/
def Response.word (r : Response) : ResponseWord := r.ill ++ r.y

/-- The operand the host presents (R34, R69, R70): the literal, or all 32 bits of the `y` of response `i`. A response with `ill = 1`
is no value to compute with (R67, R213): DEDUCED, log entry 5. A response not recorded has no `y`: DEDUCED, log entry 6. -/
def resolve (responses : List Response) : OperandSource → Except Fault Bus
  | .lit a => .ok a
  | .result i =>
    match responses[i]? with
    | none => .error (.noSuchResponse i)
    | some r => if r.ill = 1#1 then .error (.dependsOnIllegalOp i) else .ok r.y

end Sys2Proof.Machine
end

