-- ==== Sys2Proof/Machine/Ops.lean ====
section
/-! DEFINITION. The operations on State. A transaction is two of them: the host presents a request (`State.present`), and the block
answers it (`State.respond`, or `State.raiseIllegalOp` for a reserved code). The event of `60_exceptions.md` R211 is taken in the one
place `State.raiseIllegalOp`; there is no return from it, nothing being saved (R216). -/

namespace Sys2Proof.Machine

/-- The three outcomes of an instruction. -/
abbrev StepOutcome := Host.Outcome State Fault Refusal

/-- The host presents a request on the input ports and keeps the rest of its program (R30, R69). -/
def State.present (s : State) (op : OpCode) (sgn : SignSel) (a : Bus) (rest : Program) : State :=
  { s with op := op, sgn := sgn, a := a, pending := rest }

/-- A legal operation's response: `y` is the result and `ill = 0` (R66, R190); the host records it (R69). -/
def State.respond (s : State) (y : Bus) : State :=
  { s with y := y, ill := 0#1, responses := s.responses ++ [{ ill := 0#1, y := y }] }

/-- `raise IllegalOp(op)`: `ill <- 1` and `y <- 0` for this transaction (R211, R13); the host records the response (R69), and the run
is marked as faulted is marked as faulted (R213) by its first such event (the mark is a DESIGN CHOICE, log entry 4). happens: nothing is saved and control goes nowhere (R216). -/
def State.raiseIllegalOp (s : State) (op : OpCode) : State :=
  { s with
    y := 0#32, ill := 1#1, responses := s.responses ++ [{ ill := 1#1, y := 0#32 }]
    runFault := s.runFault.or (some (.illegalOp op)) }

/-- The host starts a program: its record is empty, so that `$0` is the program's own first response, and no fault is marked (R69). The
ports and the parameters are as they were (DESIGN CHOICE, log entry 1). -/
def State.loadProgram (s : State) (p : Program) : State :=
  { s with pending := p, responses := [], runFault := none }

end Sys2Proof.Machine
end

