-- ==== Sys2Proof/Machine/Classifier.lean ====
section
/-! DEFINITION. The `fp_classifier` unit and its six operations (`42_classifier.md` R150 to R158): each a mask and a comparison on the
pattern. -/

namespace Sys2Proof.Machine

/-- `IsNaN` (R150). -/
def isNaN (p : Half) : Bool := p &&& 0x7C00#16 == 0x7C00#16 && p &&& 0x03FF#16 != 0#16

/-- `IsInf` under the sign selector (R151). -/
def isInf (p : Half) (sgn : SignSel) : Bool :=
  if sgnPos sgn then p == 0x7C00#16
  else if sgnNeg sgn then p == 0xFC00#16
  else p == 0x7C00#16 || p == 0xFC00#16

/-- `IsFinite` (R152). -/
def isFinite (p : Half) : Bool := p &&& 0x7C00#16 != 0x7C00#16

/-- `IsNormal` (R153). -/
def isNormal (p : Half) : Bool := p &&& 0x7C00#16 != 0x7C00#16 && p &&& 0x7C00#16 != 0#16

/-- `Signbit` (R154). -/
def signbit (p : Half) : Bool := p &&& 0x8000#16 != 0#16

/-- `IsZero` (R156). -/
def isZero (p : Half) : Bool := p &&& 0x7FFF#16 == 0#16

/-- `IsSubnormal` (R156). -/
def isSubnormal (p : Half) : Bool := p &&& 0x7C00#16 == 0#16 && p &&& 0x03FF#16 != 0#16

/-- `Class(p)[6:0]` (R155): from bit 6 down, IsSubnormal, IsZero, Signbit, IsNormal, IsFinite, IsInf under 0, IsNaN. -/
def classBits (p : Half) : BitVec 7 :=
  BitVec.ofBool (isSubnormal p) ++ BitVec.ofBool (isZero p) ++ BitVec.ofBool (signbit p) ++ BitVec.ofBool (isNormal p)
    ++ BitVec.ofBool (isFinite p) ++ BitVec.ofBool (isInf p 0#4) ++ BitVec.ofBool (isNaN p)

/-- The outputs of the unit (R31). -/
structure ClassifierOut where
  isNan : Bool
  isInf : Bool
  isFinite : Bool
  isNormal : Bool
  signbit : Bool
  cls : BitVec 7
deriving DecidableEq, Repr

/-- The unit: all its outputs at once, for the pattern `p` under `sgn` (R31, R158). -/
def fpClassifier (p : Half) (sgn : SignSel) : ClassifierOut :=
  { isNan := isNaN p, isInf := isInf p sgn, isFinite := isFinite p, isNormal := isNormal p, signbit := signbit p
    cls := classBits p }

/-- ISNAN (R150): `y = zext_32(IsNaN(a[15:0]))`; `a[31:16]` and `sgn` are ignored. -/
def execIsnan (sgn : SignSel) (a : Bus) (s : State) : StepOutcome :=
  .next (s.respond (boolResult (fpClassifier (halfOperand a) sgn).isNan))

/-- ISINF (R151): `y = zext_32(IsInf(a[15:0], sgn))`; `a[31:16]` is ignored. -/
def execIsinf (sgn : SignSel) (a : Bus) (s : State) : StepOutcome :=
  .next (s.respond (boolResult (fpClassifier (halfOperand a) sgn).isInf))

/-- ISFINITE (R152): `y = zext_32(IsFinite(a[15:0]))`; `a[31:16]` and `sgn` are ignored. -/
def execIsfinite (sgn : SignSel) (a : Bus) (s : State) : StepOutcome :=
  .next (s.respond (boolResult (fpClassifier (halfOperand a) sgn).isFinite))

/-- ISNORMAL (R153): `y = zext_32(IsNormal(a[15:0]))`; `a[31:16]` and `sgn` are ignored. -/
def execIsnormal (sgn : SignSel) (a : Bus) (s : State) : StepOutcome :=
  .next (s.respond (boolResult (fpClassifier (halfOperand a) sgn).isNormal))

/-- SIGNBIT (R154): `y = zext_32(a[15])`; `a[31:16]` and `sgn` are ignored. -/
def execSignbit (sgn : SignSel) (a : Bus) (s : State) : StepOutcome :=
  .next (s.respond (boolResult (fpClassifier (halfOperand a) sgn).signbit))

/-- CLASS (R155): `y = zext_32(Class(a[15:0]))`; `a[31:16]` and `sgn` are ignored. -/
def execClassify (sgn : SignSel) (a : Bus) (s : State) : StepOutcome :=
  .next (s.respond (classResult (fpClassifier (halfOperand a) sgn).cls))

end Sys2Proof.Machine
end

