-- ==== Sys2Proof/Machine/Constructors.lean ====
section
/-! DEFINITION. The three constructor operations FROMBITS, NAN and INF (`43_constructors.md` R170, R172, R173). They need no unit (R31). -/

namespace Sys2Proof.Machine

/-- `Inf(sgn)` (R173): a negative selector gives the negative infinity, any other the positive one. -/
def infPattern (sgn : SignSel) : Half := if sgnNeg sgn then 0xFC00#16 else 0x7C00#16

/-- FROMBITS (R170): `y = zext_32(a[15:0])`; `a[31:16]` and `sgn` are ignored, and no pattern is validated or changed. -/
def execFrombits (_sgn : SignSel) (a : Bus) (s : State) : StepOutcome :=
  .next (s.respond (halfResult (halfOperand a)))

/-- NAN (R172): `y = zext_32(CANON_NAN)`; `a` and `sgn` are ignored. -/
def execNan (_sgn : SignSel) (_a : Bus) (s : State) : StepOutcome :=
  .next (s.respond (halfResult s.cfg.canonNan))

/-- INF (R173): `y = zext_32(Inf(sgn))`; `a` is ignored. -/
def execInf (sgn : SignSel) (_a : Bus) (s : State) : StepOutcome :=
  .next (s.respond (halfResult (infPattern sgn)))

end Sys2Proof.Machine
end

