-- ==== Sys2Proof/Machine/HalfToSingle.lean ====
section
/-! DEFINITION. The `half_to_single_converter` unit and its one operation H2S (`40_half_to_single.md` R100 to R113). -/

namespace Sys2Proof.Machine

/-- `hs = h[15]` (R14, R101). -/
def halfSign (h : Half) : BitVec 1 := h.extractLsb' 15 1

/-- `he = h[14:10]` (R14, R101). -/
def halfExp (h : Half) : BitVec 5 := h.extractLsb' 10 5

/-- `hm = h[9:0]` (R14, R101). -/
def halfSig (h : Half) : BitVec 10 := h.extractLsb' 0 10

/-- `{sign, exponent, significand}` of a single (R29). -/
def packSingle (s : BitVec 1) (e : BitVec 8) (m : BitVec 23) : Single := s ++ e ++ m

/-- `msb(m)` for `m ≠ 0`: the `k` with `2^k ≤ m < 2^(k+1)` (R12). -/
def msb {w : Nat} (m : BitVec w) : Nat := m.toNat.log2

/-- Infinity (R103). -/
def h2sInfinity (hs : BitVec 1) : Single := packSingle hs 0xFF#8 0#23

/-- NaN: all ten significand bits move to `y[22:13]`; with the parameter set, bit 22 is set as well (R106). -/
def h2sNaN (forceQuiet : Bool) (hs : BitVec 1) (hm : BitVec 10) : Single :=
  packSingle hs 0xFF#8 (hm ++ 0#13) ||| (if forceQuiet then 0x00400000#32 else 0x00000000#32)

/-- Zero (R104). -/
def h2sZero (hs : BitVec 1) : Single := packSingle hs 0#8 0#23

/-- Subnormal: with `k = msb(hm)`, exponent field `103 + k` and fraction `(hm << (23 - k)) mod 2^23` (R107). -/
def h2sSubnormal (hs : BitVec 1) (hm : BitVec 10) : Single :=
  packSingle hs (BitVec.ofNat 8 (103 + msb hm)) (BitVec.ofNat 23 (hm.toNat <<< (23 - msb hm)))

/-- Normal: exponent field `he + 112`, the significand in the top ten bits of the field (R105). -/
def h2sNormal (hs : BitVec 1) (he : BitVec 5) (hm : BitVec 10) : Single :=
  packSingle hs (BitVec.ofNat 8 (he.toNat + 112)) (hm ++ 0#13)

/-- `H2S(h)` (R100), in the order of R113. -/
def h2s (forceQuiet : Bool) (h : Half) : Single :=
  if halfExp h = 31#5 then
    if halfSig h = 0#10 then h2sInfinity (halfSign h) else h2sNaN forceQuiet (halfSign h) (halfSig h)
  else if halfExp h = 0#5 then
    if halfSig h = 0#10 then h2sZero (halfSign h) else h2sSubnormal (halfSign h) (halfSig h)
  else h2sNormal (halfSign h) (halfExp h) (halfSig h)

/-- The loop of R108: while bit 23 of the 24-bit working significand `c` is 0, shift it left and decrement the working exponent field
`w`. The first argument bounds the number of turns (R237: at most 10). -/
def normalizeLoop : Nat → BitVec 24 → Nat → BitVec 24 × Nat
  | 0, c, w => (c, w)
  | n + 1, c, w => if c.getLsbD 23 then (c, w) else normalizeLoop n (c <<< 1) (w - 1)

/-- The loop form of the subnormal case, the shape the document describes (R108): `c = hm << 13`, `w = 113`. -/
def h2sSubnormalLoop (hs : BitVec 1) (hm : BitVec 10) : Single :=
  let r := normalizeLoop 10 ((hm.zeroExtend 24) <<< 13) 113
  packSingle hs (BitVec.ofNat 8 r.2) (r.1.extractLsb' 0 23)

/-- The unit: `f_out = H2S(h_in)` (R31). -/
def halfToSingleConverter (c : Config) (hIn : Half) : Single := h2s c.forceQuiet hIn

/-- H2S (R100): `y = H2S(a[15:0])`, `ill = 0`; `a[31:16]` and `sgn` are ignored. No operand raises anything. -/
def execH2s (_sgn : SignSel) (a : Bus) (s : State) : StepOutcome :=
  .next (s.respond (singleResult (halfToSingleConverter s.cfg (halfOperand a))))

end Sys2Proof.Machine
end

