-- ==== Sys2Proof/Machine/Reserved.lean ====
section
/-! DEFINITION. The five reserved operation codes (`30_encoding.md` R67): each raises `IllegalOp` (`60_exceptions.md` R211), whatever `sgn`
and `a` hold (R215). -/

namespace Sys2Proof.Machine

/-- `op = 0xB` (R67). -/
def execReservedB (_sgn : SignSel) (_a : Bus) (s : State) : StepOutcome := .next (s.raiseIllegalOp 0xB#4)

/-- `op = 0xC` (R67). -/
def execReservedC (_sgn : SignSel) (_a : Bus) (s : State) : StepOutcome := .next (s.raiseIllegalOp 0xC#4)

/-- `op = 0xD` (R67). -/
def execReservedD (_sgn : SignSel) (_a : Bus) (s : State) : StepOutcome := .next (s.raiseIllegalOp 0xD#4)

/-- `op = 0xE` (R67). -/
def execReservedE (_sgn : SignSel) (_a : Bus) (s : State) : StepOutcome := .next (s.raiseIllegalOp 0xE#4)

/-- `op = 0xF` (R67). -/
def execReservedF (_sgn : SignSel) (_a : Bus) (s : State) : StepOutcome := .next (s.raiseIllegalOp 0xF#4)

end Sys2Proof.Machine
end

