-- ==== Sys2Proof/Machine/Flags.lean ====
section
/-! DEFINITION. The block stores no flag and no condition code (`10_state.md` R23). The flags here are the two intermediate ones of the
rounding rule (`41_single_to_half.md` R128), which live inside one transaction. -/

namespace Sys2Proof.Machine

/-- `first = v[n-1]`: the first bit discarded by a right shift of `v` by `n` (R127, R128). -/
def firstDiscarded {w : Nat} (v : BitVec w) (n : Nat) : Bool := v.getLsbD (n - 1)

/-- `lower`: some bit of `v` below the first discarded one is 1 (R127, R128). -/
def lowerDiscarded {w : Nat} (v : BitVec w) (n : Nat) : Bool := v.toNat % 2 ^ (n - 1) != 0

/-- `inc = first & (lower | q[0])`, the one rounding rule: to nearest, ties to even (R128). -/
def roundIncrement (first lower q0 : Bool) : Bool := first && (lower || q0)

end Sys2Proof.Machine
end

