-- ==== Sys2Proof/Machine/SingleToHalf.lean ====
section
/-! DEFINITION. The `single_to_half_converter` unit and its one operation S2H (`41_single_to_half.md` R120 to R134). All shift amounts are
natural numbers and none is reduced (`00_scope.md` R12, `70_reset_and_hazards.md` R233). -/

namespace Sys2Proof.Machine

/-- `fs = f[31]` (R14, R121). -/
def singleSign (f : Single) : BitVec 1 := f.extractLsb' 31 1

/-- `fe = f[30:23]` (R14, R121). -/
def singleExp (f : Single) : BitVec 8 := f.extractLsb' 23 8

/-- `fm = f[22:0]` (R14, R121). -/
def singleSig (f : Single) : BitVec 23 := f.extractLsb' 0 23

/-- `{sign, exponent, significand}` of a half (R28). -/
def packHalf (s : BitVec 1) (e : BitVec 5) (m : BitVec 10) : Half := s ++ e ++ m

/-- The half infinity of a sign, the saturated result (R125, R123). -/
def s2hInfinity (fs : BitVec 1) : Half := packHalf fs 0b11111#5 0#10

/-- The half zero of a sign, the flushed result (R126). -/
def s2hZero (fs : BitVec 1) : Half := packHalf fs 0#5 0#10

/-- Infinity or NaN in the source: the quiet-NaN indicator bit `0x0200` when any significand bit is set, and the top ten significand bits
ORed in. No rounding takes place (R123). -/
def s2hInfNaN (fs : BitVec 1) (fm : BitVec 23) : Half :=
  s2hInfinity fs ||| (if fm = 0#23 then 0x0000#16 else 0x0200#16) ||| (fm.extractLsb' 13 10).zeroExtend 16

/-- The target exponent `t = fe - 112`, an exact signed integer (R124). -/
def targetExp (fe : BitVec 8) : Int := (fe.toNat : Int) - 112

/-- Underflow: the significand with its implicit bit restored, shifted right by `sh` and rounded (R127). R120 uses it for
`14 ≤ sh ≤ 24`; the carry of `q + inc` may reach the exponent field, which makes the smallest normal (R234). -/
def s2hUnderflow (fs : BitVec 1) (fm : BitVec 23) (sh : Nat) : Half :=
  let c : BitVec 24 := 1#1 ++ fm
  let q := c >>> sh
  let inc := roundIncrement (firstDiscarded c sh) (lowerDiscarded c sh) (q.getLsbD 0)
  s2hZero fs ||| BitVec.ofNat 16 (q.toNat + inc.toNat)

/-- Normal: the significand shifted right by 13 and rounded; the increment is added to the assembled word, so that its carry may enter the
exponent field (R129, R234). -/
def s2hNormal (fs : BitVec 1) (t : Int) (fm : BitVec 23) : Half :=
  let q := fm.extractLsb' 13 10
  let inc := roundIncrement (firstDiscarded fm 13) (lowerDiscarded fm 13) (q.getLsbD 0)
  packHalf fs (BitVec.ofInt 5 t) q + (BitVec.ofBool inc).zeroExtend 16

/-- `S2H(f)` (R120). The flush test `sh > 24` is made on the full integer before any shift (R126, R233). -/
def s2h (f : Single) : Half :=
  if singleExp f = 255#8 then s2hInfNaN (singleSign f) (singleSig f)
  else
    let t := targetExp (singleExp f)
    if t ≥ 31 then s2hInfinity (singleSign f)
    else if t ≤ 0 then
      let sh := (14 - t).toNat
      if sh > 24 then s2hZero (singleSign f) else s2hUnderflow (singleSign f) (singleSig f) sh
    else s2hNormal (singleSign f) t (singleSig f)

/-- The unit: `h_out = S2H(f_in)` (R31). -/
def singleToHalfConverter (fIn : Single) : Half := s2h fIn

/-- S2H (R120): `y = zext_32(S2H(a[31:0]))`, `ill = 0`; `sgn` is ignored. Saturating and flushing are results, not errors (R134). -/
def execS2h (_sgn : SignSel) (a : Bus) (s : State) : StepOutcome :=
  .next (s.respond (halfResult (singleToHalfConverter (singleOperand a))))

end Sys2Proof.Machine
end

