-- ==== Sys2Proof/Machine/Dispatch.lean ====
section
/-! DEFINITION. The meaning of every instruction, one arm each (`30_encoding.md` R61). -/

namespace Sys2Proof.Machine

def exec (i : Instr) (s : State) : Host.Outcome State Fault Refusal :=
  match i with
  | .h2s sgn a => Sys2Proof.Machine.execH2s sgn a s
  | .s2h sgn a => Sys2Proof.Machine.execS2h sgn a s
  | .frombits sgn a => Sys2Proof.Machine.execFrombits sgn a s
  | .isnan sgn a => Sys2Proof.Machine.execIsnan sgn a s
  | .isinf sgn a => Sys2Proof.Machine.execIsinf sgn a s
  | .isfinite sgn a => Sys2Proof.Machine.execIsfinite sgn a s
  | .isnormal sgn a => Sys2Proof.Machine.execIsnormal sgn a s
  | .signbit sgn a => Sys2Proof.Machine.execSignbit sgn a s
  | .classify sgn a => Sys2Proof.Machine.execClassify sgn a s
  | .nan sgn a => Sys2Proof.Machine.execNan sgn a s
  | .inf sgn a => Sys2Proof.Machine.execInf sgn a s
  | .reservedB sgn a => Sys2Proof.Machine.execReservedB sgn a s
  | .reservedC sgn a => Sys2Proof.Machine.execReservedC sgn a s
  | .reservedD sgn a => Sys2Proof.Machine.execReservedD sgn a s
  | .reservedE sgn a => Sys2Proof.Machine.execReservedE sgn a s
  | .reservedF sgn a => Sys2Proof.Machine.execReservedF sgn a s

end Sys2Proof.Machine
end

