-- ==== Sys2Proof/Machine/Step.lean ====
section
/-! DEFINITION. One step is one transaction (`30_encoding.md` R69): the host presents its next request and the block answers it. -/

namespace Sys2Proof.Machine

/-- One transaction. With no request left the run is over and the block does nothing (R69, `70_reset_and_hazards.md` R230): DEDUCED, log
entry 7. Otherwise the host resolves the operand (R34, R70), presents the request word (R60), and the decoded instruction runs (R61). -/
def step (s : State) : Host.Outcome State Fault Refusal :=
  match s.pending with
  | [] => .next s
  | it :: rest =>
    match resolve s.responses it.operand with
    | .error e => .fault e
    | .ok a => exec (decode (requestWord it.op it.sgn a)) (s.present it.op it.sgn a rest)

/-- The host writes one request word in front of its program (R69), so that the next step presents and runs exactly it. Nothing
else changes. It stands for the host's choice of request (DESIGN CHOICE, log entry 1). The bits of `w` at `nbits` and above are zero. R68
knows 40 bits and no other length: of more than 40 the low 40 are the request and the others are dropped, where `decodeBits` refuses;
fewer are completed with zeros at the top (DESIGN CHOICE, log entry 11). -/
def State.withFetchWord (s : State) (nbits w : Nat) : State :=
  let r : RequestWord := BitVec.ofNat 40 (w % 2 ^ nbits)
  { s with pending := { op := opField r, sgn := sgnField r, operand := .lit (aField r) } :: s.pending }

end Sys2Proof.Machine
end

