-- ==== Sys2Proof/WellFormed.lean ====
section
/-! DEFINITION. What must hold of the model's input data. An `Instr` has no check of its own that it could fail: its fields' widths are in
their types and every field value is legal (`30_encoding.md` R67). What can be ill-formed is a configuration (R9) and a program (R69,
R213); the canonical form of a request (R70) is a check that a legal request need not meet. -/

namespace Sys2Proof

/-- The constraint R9 puts on `CANON_NAN`: exponent field all ones, significand field nonzero. -/
def Config.legal (c : Config) : Bool :=
  c.canonNan.extractLsb' 10 5 == 0b11111#5 && c.canonNan.extractLsb' 0 10 != 0#10

/-- `a` with `a[31:16]` zero: how a half operand is assembled (R70). -/
def clearUpper (a : Bus) : Bus := (a.extractLsb' 0 16).zeroExtend 32

/-- The instruction with the fields its operation ignores set to zero (R64, R65, R70). A reserved code is written as its raw word (R70), of
which nothing is left out. -/
def Instr.clearIgnored : Instr → Instr
  | .h2s _ a => .h2s 0 (clearUpper a)
  | .s2h _ a => .s2h 0 a
  | .frombits _ a => .frombits 0 (clearUpper a)
  | .isnan _ a => .isnan 0 (clearUpper a)
  | .isinf sgn a => .isinf sgn (clearUpper a)
  | .isfinite _ a => .isfinite 0 (clearUpper a)
  | .isnormal _ a => .isnormal 0 (clearUpper a)
  | .signbit _ a => .signbit 0 (clearUpper a)
  | .classify _ a => .classify 0 (clearUpper a)
  | .nan _ _ => .nan 0 0
  | .inf sgn _ => .inf sgn 0
  | .reservedB sgn a => .reservedB sgn a
  | .reservedC sgn a => .reservedC sgn a
  | .reservedD sgn a => .reservedD sgn a
  | .reservedE sgn a => .reservedE sgn a
  | .reservedF sgn a => .reservedF sgn a

/-- The canonical form (R70): the ignored fields are zero, which is how the assembler writes a request. A request that fails this check is
as legal as one that passes it (R64, R67). -/
def Instr.canonical (i : Instr) : Bool := i.clearIgnored == i

/-- R62, R67: the operation code is one of the eleven. -/
def legalOp (op : OpCode) : Bool := op.toNat < 0xB

/-- The checks on one request of a program, given the requests before it: its code is one of the eleven (R213: "a host program that
sends a reserved code is wrong"), and a `$i` names a request before it (R70). -/
def Machine.ProgramItem.wellFormedAfter (earlier : Nat) (it : Machine.ProgramItem) : Bool :=
  legalOp it.op &&
    match it.operand with
    | .lit _ => true
    | .result i => i < earlier

/-- Every request of the program passes its check, `earlier` requests standing before the list's first one. -/
def Machine.Program.wellFormedFrom : Nat → Machine.Program → Bool
  | _, [] => true
  | earlier, it :: rest => it.wellFormedAfter earlier && Machine.Program.wellFormedFrom (earlier + 1) rest

/-- A program with no reserved code in which every `$i` names an earlier response (R69, R70, R213). -/
def Machine.Program.wellFormed (p : Machine.Program) : Bool := Machine.Program.wellFormedFrom 0 p

end Sys2Proof
end

