-- ==== Sys2Proof/Machine/Assembler.lean ====
section
/-! DEFINITION. The assembly language of `30_encoding.md` R70 and R71, in which a host's program is written down: its lines as data, the
assembler and the disassembler. No operation of the block reads it. -/

namespace Sys2Proof.Machine

/-- The eleven mnemonics (R62, R70). -/
inductive Mnemonic where
  | h2s | s2h | frombits | isnan | isinf | isfinite | isnormal | signbit | classify | nan | inf
deriving DecidableEq, Repr

/-- An operand as it is written: `0x...` or `$i` (R70). -/
inductive AsmOperand where
  | hex (n : Nat)
  | result (i : Nat)
deriving DecidableEq, Repr

/-- One line: a mnemonic with what follows it, a pseudo-operation of R71, or a raw word `.req` (R70). -/
inductive AsmLine where
  | op (m : Mnemonic) (operand : Option AsmOperand) (sign : Option Int)
  | tosingle (x : AsmOperand)
  | fromsingle (x : AsmOperand)
  | ispinf (x : AsmOperand)
  | isninf (x : AsmOperand)
  | isanyinf (x : AsmOperand)
  | pinf
  | ninf
  | req (w : RequestWord)
deriving DecidableEq, Repr

/-- The operation code of a mnemonic (R62). -/
def Mnemonic.op : Mnemonic → OpCode
  | .h2s => 0x0
  | .s2h => 0x1
  | .frombits => 0x2
  | .isnan => 0x3
  | .isinf => 0x4
  | .isfinite => 0x5
  | .isnormal => 0x6
  | .signbit => 0x7
  | .classify => 0x8
  | .nan => 0x9
  | .inf => 0xA

/-- Only ISINF and INF are written with a sign (R70). -/
def Mnemonic.takesSign : Mnemonic → Bool
  | .isinf | .inf => true
  | _ => false

/-- How many digits a literal operand may have: 8 for S2H, 4 for a half operand, none for NAN and INF, which have no operand (R70). -/
def Mnemonic.digits : Mnemonic → Nat
  | .s2h => 8
  | .nan | .inf => 0
  | _ => 4

/-- The expansion of a pseudo-operation (R71); any other line stands for itself. -/
def AsmLine.expand : AsmLine → AsmLine
  | .tosingle x => .op .h2s (some x) none
  | .fromsingle x => .op .s2h (some x) none
  | .ispinf x => .op .isinf (some x) (some 1)
  | .isninf x => .op .isinf (some x) (some (-1))
  | .isanyinf x => .op .isinf (some x) (some 0)
  | .pinf => .op .inf none (some 1)
  | .ninf => .op .inf none (some (-1))
  | .op m x n => .op m x n
  | .req w => .req w

/-- The sign field: -8 to 7 in two's complement for ISINF and INF, 0 where it is left out (D22; log entry 10); refused on every other mnemonic
(R70). -/
def assembleSign (m : Mnemonic) : Option Int → Option SignSel
  | none => some 0#4
  | some n => if m.takesSign ∧ -8 ≤ n ∧ n ≤ 7 then some (BitVec.ofInt 4 n) else none

/-- The operand: a literal of the mnemonic's digits, or `$i`; a mnemonic without an operand assembles it as zero (R70). -/
def assembleOperand (m : Mnemonic) : Option AsmOperand → Option OperandSource
  | none => if m.digits = 0 then some (.lit 0#32) else none
  | some (.hex n) => if m.digits ≠ 0 ∧ n < 16 ^ m.digits then some (.lit (BitVec.ofNat 32 n)) else none
  | some (.result i) => if m.digits ≠ 0 then some (.result i) else none

/-- A line that is no pseudo-operation, assembled. -/
def assembleExpanded : AsmLine → Option ProgramItem
  | .op m x n =>
    match assembleOperand m x, assembleSign m n with
    | some operand, some sgn => some { op := m.op, sgn := sgn, operand := operand }
    | _, _ => none
  | .req w => some { op := opField w, sgn := sgnField w, operand := .lit (aField w) }
  | _ => none

/-- The assembler: a line to a request of the program (R70, R71), or none where R70 gives the line no form. -/
def assemble (l : AsmLine) : Option ProgramItem := assembleExpanded l.expand

/-- A whole program assembled, line by line (R70: "one request per line"). -/
def assembleProgram : List AsmLine → Option Program
  | [] => some []
  | l :: rest =>
    match assemble l, assembleProgram rest with
    | some it, some p => some (it :: p)
    | _, _ => none

/-- The disassembler's line for an instruction (R70): its ignored fields are not shown; a reserved code has no mnemonic. -/
def lineOf : Instr → AsmLine
  | .h2s _ a => .op .h2s (some (.hex (a.toNat % 2 ^ 16))) none
  | .s2h _ a => .op .s2h (some (.hex a.toNat)) none
  | .frombits _ a => .op .frombits (some (.hex (a.toNat % 2 ^ 16))) none
  | .isnan _ a => .op .isnan (some (.hex (a.toNat % 2 ^ 16))) none
  | .isinf sgn a => .op .isinf (some (.hex (a.toNat % 2 ^ 16))) (some sgn.toInt)
  | .isfinite _ a => .op .isfinite (some (.hex (a.toNat % 2 ^ 16))) none
  | .isnormal _ a => .op .isnormal (some (.hex (a.toNat % 2 ^ 16))) none
  | .signbit _ a => .op .signbit (some (.hex (a.toNat % 2 ^ 16))) none
  | .classify _ a => .op .classify (some (.hex (a.toNat % 2 ^ 16))) none
  | .nan _ _ => .op .nan none none
  | .inf sgn _ => .op .inf none (some sgn.toInt)
  | .reservedB sgn a => .req (requestWord 0xB sgn a)
  | .reservedC sgn a => .req (requestWord 0xC sgn a)
  | .reservedD sgn a => .req (requestWord 0xD sgn a)
  | .reservedE sgn a => .req (requestWord 0xE sgn a)
  | .reservedF sgn a => .req (requestWord 0xF sgn a)

/-- The disassembler (R70): the line, and whether the comment `; ignored bits set` follows it. -/
def disassemble (w : RequestWord) : AsmLine × Bool := (lineOf (decode w), !(decode w).canonical)

end Sys2Proof.Machine
end

