-- ==== Sys2Proof/Machine/Block.lean ====
section
/-! DEFINITION. The whole block as the total function of `30_encoding.md` R61, apart from any state: what the machine is compared with. -/

namespace Sys2Proof.Machine

/-- A legal operation's response (R66). -/
def Response.legal (y : Bus) : Response := { ill := 0#1, y := y }

/-- The response of a reserved code (R67). -/
def Response.illegal : Response := { ill := 1#1, y := 0#32 }

/-- `Exec(op, sgn, a)`, the table of R61 line by line. -/
def blockExec (c : Config) (op : OpCode) (sgn : SignSel) (a : Bus) : Response :=
  match op.toNat with
  | 0x0 => .legal (h2s c.forceQuiet (halfOperand a))
  | 0x1 => .legal (halfResult (s2h (singleOperand a)))
  | 0x2 => .legal (halfResult (halfOperand a))
  | 0x3 => .legal (boolResult (isNaN (halfOperand a)))
  | 0x4 => .legal (boolResult (isInf (halfOperand a) sgn))
  | 0x5 => .legal (boolResult (isFinite (halfOperand a)))
  | 0x6 => .legal (boolResult (isNormal (halfOperand a)))
  | 0x7 => .legal (boolResult (signbit (halfOperand a)))
  | 0x8 => .legal (classResult (classBits (halfOperand a)))
  | 0x9 => .legal (halfResult c.canonNan)
  | 0xA => .legal (halfResult (infPattern sgn))
  | _ => .illegal

/-- `Exec` on a request word (R60, R61). -/
def blockExecWord (c : Config) (w : RequestWord) : Response := blockExec c (opField w) (sgnField w) (aField w)

end Sys2Proof.Machine
end

