-- ==== Sys2Proof/Machine/Value.lean ====
section
/-! DEFINITION. The number a pattern denotes (`00_scope.md` R15). Laws use it; no operation of the block computes with it (R19, R235). -/

namespace Sys2Proof.Machine

/-- What a pattern denotes: not a number, an infinity of a sign, or a finite number, whose sign is kept apart so that the two zeros
differ (`neg` is the sign bit, `mag` the magnitude): DEDUCED, log entry 12. -/
inductive Denoted where
  | nan
  | infinity (neg : Bool)
  | finite (neg : Bool) (mag : ℚ)
deriving DecidableEq, Repr

/-- The magnitude of a finite half by exponent and significand field (R15): `hm * 2^-24`, or `(1024 + hm) * 2^(he - 25)`. -/
def halfMagnitude (he : BitVec 5) (hm : BitVec 10) : ℚ :=
  if he = 0#5 then (hm.toNat : ℚ) * 2 ^ (-24 : ℤ)
  else ((1024 + hm.toNat : ℕ) : ℚ) * 2 ^ ((he.toNat : ℤ) - 25)

/-- The magnitude of a finite single by exponent and significand field (R15): `fm * 2^-149`, or `(8388608 + fm) * 2^(fe - 150)`. -/
def singleMagnitude (fe : BitVec 8) (fm : BitVec 23) : ℚ :=
  if fe = 0#8 then (fm.toNat : ℚ) * 2 ^ (-149 : ℤ)
  else ((8388608 + fm.toNat : ℕ) : ℚ) * 2 ^ ((fe.toNat : ℤ) - 150)

/-- The value of a half pattern (R15). -/
def halfValue (h : Half) : Denoted :=
  if halfExp h = 31#5 then
    if halfSig h = 0#10 then .infinity (halfSign h == 1#1) else .nan
  else .finite (halfSign h == 1#1) (halfMagnitude (halfExp h) (halfSig h))

/-- The value of a single pattern (R15). -/
def singleValue (f : Single) : Denoted :=
  if singleExp f = 255#8 then
    if singleSig f = 0#23 then .infinity (singleSign f == 1#1) else .nan
  else .finite (singleSign f == 1#1) (singleMagnitude (singleExp f) (singleSig f))

end Sys2Proof.Machine
end

