-- ==== Sys2Proof/Safety.lean ====
section
/-! DEFINITION. What counts as a safe run, the invariants of the machine, and the words the statements are made of. -/

namespace Sys2Proof.Machine

/-- `60_exceptions.md` R213: the premise a claim about a run carries, "that no response of the run has `ill = 1`". -/
def State.noIllegalResponse (s : State) : Bool := s.responses.all (fun r => r.ill != 1#1)

/-- The mark of R213 and the record of R69 say the same: a fault is marked exactly where a response with `ill = 1` is recorded. -/
def State.MarkAgrees (s : State) : Prop := s.runFault = none ↔ s.noIllegalResponse = true

/-- The marked event, if any, is one the block can raise: the code it names is reserved (R211, R212). -/
def State.MarkReserved (s : State) : Prop := ∀ op, s.runFault = some (.illegalOp op) → 0xB ≤ op.toNat

/-- `10_state.md` R20, R30: the outputs follow the inputs, being the response of R61 to the request that is on them. -/
def State.PortsAgree (s : State) : Prop :=
  ({ ill := s.ill, y := s.y } : Response) = blockExec s.cfg s.op s.sgn s.a

/-- R66, R211: whatever has `ill = 1` has `y = 0`, on the ports and in the record. -/
def State.IllegalIsZero (s : State) : Prop :=
  (s.ill = 1#1 → s.y = 0#32) ∧ ∀ r ∈ s.responses, r.ill = 1#1 → r.y = 0#32

/-- `s` after one legal transaction that answers `y`, EVERY field written out: `y`, `ill` and one more recorded response, and nothing else
changed (R20, R66, R69). -/
def State.answered (s : State) (y : Bus) : State :=
  { cfg := s.cfg, op := s.op, sgn := s.sgn, a := s.a
    y := y, ill := 0#1
    pending := s.pending
    responses := s.responses ++ [{ ill := 0#1, y := y }]
    runFault := s.runFault }

/-- `s` after one transaction that raised `IllegalOp(op)`, EVERY field written out (R211, R213, R216). -/
def State.answeredIllegal (s : State) (op : OpCode) : State :=
  { cfg := s.cfg, op := s.op, sgn := s.sgn, a := s.a
    y := 0#32, ill := 1#1
    pending := s.pending
    responses := s.responses ++ [{ ill := 1#1, y := 0#32 }]
    runFault := match s.runFault with
      | none => some (.illegalOp op)
      | some e => some e }

/-- `exec i` answers `y` at `s`: it completes in the state `s.answered y`. -/
def Answers (i : Instr) (s : State) (y : Bus) : Prop := exec i s = .next (s.answered y)

/-- The response an outcome shows on the output ports, if it is a next state. -/
def shown : StepOutcome → Option Response
  | .next t => some { ill := t.ill, y := t.y }
  | .fault _ => none
  | .refused _ => none

/-- The program whose requests are the given words, none of them with a `$i` (R60, R69). -/
def literalProgram (ws : List RequestWord) : Program :=
  ws.map fun w => { op := w.extractLsb' 36 4, sgn := w.extractLsb' 32 4, operand := .lit (w.extractLsb' 0 32) }

/-- The signed number a pattern denotes, if it is a finite one (`00_scope.md` R15). -/
def Denoted.number : Denoted → Option ℚ
  | .finite neg mag => some (if neg then -mag else mag)
  | .infinity _ => none
  | .nan => none

end Sys2Proof.Machine
end

