-- ==== Sys2Proof/Certificates/Slice0/Obligations.lean ====
section
/-! DEFINITION. The statements for the provers, made from the numbered rules of spec/. `Answers i s y` says that `exec i s` completes in the
state in which `y` is the result, `ill` is 0, the response is recorded, and EVERY other field is as it was: each such statement is the
result, the completion and the frame of its instruction at once. There is no memory, no flag and no general register to frame. -/

open Sys2Proof Sys2Proof.Machine

/-- For every instruction i, with its sgn and a fields at every value, decode (encode i) = i: no bit of a request word is dropped.
(30_encoding.md section 1, 30_encoding.md section 2) -/
def Obligations.DecodeOfEncode : Prop :=
  ∀ i : Instr, decode (encode i) = i

/-- For every 40-bit request word w, encode (decode w) = w: each of the 2^40 words is exactly one instruction. (30_encoding.md section
1, 30_encoding.md section 4) -/
def Obligations.EncodeOfDecode : Prop :=
  ∀ w : RequestWord, encode (decode w) = w

/-- For every request word w and each of the 16 rows: w and 0xF000000000 is the row's match value exactly when w decodes to the row's
instruction, carrying REQ[35:32] and REQ[31:0] as its sgn and a. (30_encoding.md section 2, 30_encoding.md section 4) -/
def Obligations.MaskSelectsRow : Prop :=
  ∀ w : RequestWord,
    (w &&& 0xF000000000#40 = 0x0000000000#40 ↔ decode w = .h2s (w.extractLsb' 32 4) (w.extractLsb' 0 32)) ∧
    (w &&& 0xF000000000#40 = 0x1000000000#40 ↔ decode w = .s2h (w.extractLsb' 32 4) (w.extractLsb' 0 32)) ∧
    (w &&& 0xF000000000#40 = 0x2000000000#40 ↔ decode w = .frombits (w.extractLsb' 32 4) (w.extractLsb' 0 32)) ∧
    (w &&& 0xF000000000#40 = 0x3000000000#40 ↔ decode w = .isnan (w.extractLsb' 32 4) (w.extractLsb' 0 32)) ∧
    (w &&& 0xF000000000#40 = 0x4000000000#40 ↔ decode w = .isinf (w.extractLsb' 32 4) (w.extractLsb' 0 32)) ∧
    (w &&& 0xF000000000#40 = 0x5000000000#40 ↔ decode w = .isfinite (w.extractLsb' 32 4) (w.extractLsb' 0 32)) ∧
    (w &&& 0xF000000000#40 = 0x6000000000#40 ↔ decode w = .isnormal (w.extractLsb' 32 4) (w.extractLsb' 0 32)) ∧
    (w &&& 0xF000000000#40 = 0x7000000000#40 ↔ decode w = .signbit (w.extractLsb' 32 4) (w.extractLsb' 0 32)) ∧
    (w &&& 0xF000000000#40 = 0x8000000000#40 ↔ decode w = .classify (w.extractLsb' 32 4) (w.extractLsb' 0 32)) ∧
    (w &&& 0xF000000000#40 = 0x9000000000#40 ↔ decode w = .nan (w.extractLsb' 32 4) (w.extractLsb' 0 32)) ∧
    (w &&& 0xF000000000#40 = 0xA000000000#40 ↔ decode w = .inf (w.extractLsb' 32 4) (w.extractLsb' 0 32)) ∧
    (w &&& 0xF000000000#40 = 0xB000000000#40 ↔ decode w = .reservedB (w.extractLsb' 32 4) (w.extractLsb' 0 32)) ∧
    (w &&& 0xF000000000#40 = 0xC000000000#40 ↔ decode w = .reservedC (w.extractLsb' 32 4) (w.extractLsb' 0 32)) ∧
    (w &&& 0xF000000000#40 = 0xD000000000#40 ↔ decode w = .reservedD (w.extractLsb' 32 4) (w.extractLsb' 0 32)) ∧
    (w &&& 0xF000000000#40 = 0xE000000000#40 ↔ decode w = .reservedE (w.extractLsb' 32 4) (w.extractLsb' 0 32)) ∧
    (w &&& 0xF000000000#40 = 0xF000000000#40 ↔ decode w = .reservedF (w.extractLsb' 32 4) (w.extractLsb' 0 32))

/-- Fifteen of the request words of the spec's examples and vectors, one of every family, decode to the instruction the spec gives for
them. (30_encoding.md section 6, 95_test_vectors.md sections 2 and 3) -/
def Obligations.SampleWordsDecode : Prop :=
  decode 0x0000003C00 = .h2s 0x0 0x00003C00 ∧ decode 0x0FDEAD3C00 = .h2s 0xF 0xDEAD3C00 ∧
    decode 0x103F800000 = .s2h 0x0 0x3F800000 ∧ decode 0x20DEAD7C01 = .frombits 0x0 0xDEAD7C01 ∧
    decode 0x37FFFF7E00 = .isnan 0x7 0xFFFF7E00 ∧ decode 0x4F0000FC00 = .isinf 0xF 0x0000FC00 ∧
    decode 0x500000FC00 = .isfinite 0x0 0x0000FC00 ∧ decode 0x600000FC00 = .isnormal 0x0 0x0000FC00 ∧
    decode 0x700000FC00 = .signbit 0x0 0x0000FC00 ∧ decode 0x800000FC00 = .classify 0x0 0x0000FC00 ∧
    decode 0x9000000000 = .nan 0x0 0x00000000 ∧ decode 0xAF00000000 = .inf 0xF 0x00000000 ∧
    decode 0xB000003C00 = .reservedB 0x0 0x00003C00 ∧ decode 0xC312345678 = .reservedC 0x3 0x12345678 ∧
    decode 0xFFFFFFFFFF = .reservedF 0xF 0xFFFFFFFF

/-- When the next request's operand resolves to a, step is exec of the decoded request word {op, sgn, a}, at the state whose input ports
hold the request and whose program is the rest; nothing else is changed before exec. (30_encoding.md section 5, 10_state.md section 3)
-/
def Obligations.StepRunsDecodedRequest : Prop :=
  ∀ (s : State) (it : ProgramItem) (rest : Program) (a : Bus),
    s.pending = it :: rest → resolve s.responses it.operand = .ok a →
      step s = exec (decode (it.op ++ it.sgn ++ a : RequestWord))
        { s with op := it.op, sgn := it.sgn, a := a, pending := rest }

/-- For every state and every request word w, step after withFetchWord runs exactly the instruction w decodes to, at the state with w
on the input ports and everything else, the pending program among it, unchanged. That a fetched word stands for the host's next request
is the model's choice, log entry 1. (30_encoding.md section 1, 30_encoding.md section 5) -/
def Obligations.FetchWordRunsNext : Prop :=
  ∀ (s : State) (w : RequestWord),
    step (s.withFetchWord 40 w.toNat) =
      exec (decode w) { s with op := w.extractLsb' 36 4, sgn := w.extractLsb' 32 4, a := w.extractLsb' 0 32 }

/-- When the host has no request left, step answers the same state: the block does nothing until the host presents a request. That the
end of a run is an idle step is the model's choice, log entry 7. (70_reset_and_hazards.md section 1, 30_encoding.md section 5) -/
def Obligations.StepWithoutRequestIdles : Prop :=
  ∀ s : State, s.pending = [] → step s = .next s

/-- A request whose operand is $i presents all 32 bits of the y of response i when that response has ill = 0, stops with
dependsOnIllegalOp when it has ill = 1, and stops with noSuchResponse when no such response is recorded (the two faults are the model's
choice, log entries 5 and 6). (30_encoding.md section 6, 60_exceptions.md section 1, 10_state.md section 4) -/
def Obligations.ResultOperands : Prop :=
  ∀ (s : State) (op : OpCode) (sgn : SignSel) (i : Nat) (rest : Program),
    s.pending = ⟨op, sgn, .result i⟩ :: rest →
      (∀ y : Bus, s.responses[i]? = some ⟨0#1, y⟩ →
        step s = exec (decode (op ++ sgn ++ y : RequestWord)) { s with op := op, sgn := sgn, a := y, pending := rest }) ∧
      (∀ y : Bus, s.responses[i]? = some ⟨1#1, y⟩ → step s = .fault (.dependsOnIllegalOp i)) ∧
      (s.responses.length ≤ i → step s = .fault (.noSuchResponse i))

/-- From every state, for every request {op, sgn, a} the host presents, the step completes, the output ports hold Exec(op, sgn, a) of
R61's table, that response is recorded last, the input ports hold the request, the program is the rest, and the parameters are
unchanged. R61 gives Exec; that the response is recorded and the program is the rest is R69, held in State by the model's choice, log
entry 1. (30_encoding.md R61 and R69, sections 1 and 5) -/
def Obligations.StepIsExec : Prop :=
  ∀ (s : State) (it : ProgramItem) (rest : Program) (a : Bus),
    s.pending = it :: rest → resolve s.responses it.operand = .ok a →
      ∃ t, step s = .next t ∧ ({ ill := t.ill, y := t.y } : Response) = blockExec s.cfg it.op it.sgn a ∧
        t.responses = s.responses ++ [blockExec s.cfg it.op it.sgn a] ∧
        t.op = it.op ∧ t.sgn = it.sgn ∧ t.a = a ∧ t.pending = rest ∧ t.cfg = s.cfg

/-- From every state and for every list of request words, running it to its end completes with the recorded responses RSP_i =
Exec(REQ_i) in order, whatever the requests before each were, and with no request left. The run starts from State.loadProgram, the
model's choice, log entry 1. (30_encoding.md section 5, 20_memory.md section 3) -/
def Obligations.RunIsListOfExec : Prop :=
  ∀ (s : State) (ws : List RequestWord),
    ∃ t : State, core.run ws.length (s.loadProgram (literalProgram ws)) = .next t ∧
      t.responses = ws.map (fun w => blockExec s.cfg (w.extractLsb' 36 4) (w.extractLsb' 32 4) (w.extractLsb' 0 32)) ∧
      t.pending = []

/-- For every state and every list of requests with only legal codes in which every $i names an earlier request, the run completes,
records one response for each request, none with ill = 1, and is not marked as faulted. That the run starts from State.loadProgram, and
the mark of a faulted run, are the model's choice, log entries 1 and 4. (30_encoding.md section 5, 60_exceptions.md section 1) -/
def Obligations.WellFormedProgramCompletes : Prop :=
  ∀ (s : State) (p : Program), Program.wellFormed p = true →
    ∃ t : State, core.run p.length (s.loadProgram p) = .next t ∧ t.responses.length = p.length ∧
      t.noIllegalResponse = true ∧ t.runFault = none ∧ t.pending = []

/-- For every state whose output ports are Exec of its input ports, the state after a step is such a state again. (10_state.md section
1, 10_state.md section 3, 70_reset_and_hazards.md section 1) -/
def Obligations.PortsAgreeKept : Prop :=
  ∀ s t : State, s.PortsAgree → step s = .next t → t.PortsAgree

/-- For every state in which the fault mark is set exactly when a recorded response has ill = 1, and names a reserved code, the state
after a step is such a state again. The mark is the model's choice, log entry 4. (60_exceptions.md section 1, 30_encoding.md section 5)
-/
def Obligations.MarkKept : Prop :=
  ∀ s t : State, s.MarkAgrees → s.MarkReserved → step s = .next t → t.MarkAgrees ∧ t.MarkReserved

/-- For every state in which ill = 1 implies y = 0 on the output ports and in every recorded response, the state after a step is such a
state again. (30_encoding.md section 3, 60_exceptions.md section 1) -/
def Obligations.IllegalIsZeroKept : Prop :=
  ∀ s t : State, s.IllegalIsZero → step s = .next t → t.IllegalIsZero

/-- The reset state has CANON_NAN = 0x7FFF and NAN_EXPAND_FORCE_QUIET = 0, a legal configuration, no pending request, no recorded
response, no fault mark, and meets the invariants PortsAgree, MarkAgrees, MarkReserved and IllegalIsZero. Its input ports and its being
built with the default parameters are the model's choice, log entries 2 and 3. (10_state.md section 4, 70_reset_and_hazards.md section
1, 00_scope.md section 4) -/
def Obligations.ResetIsUnusedBlock : Prop :=
  State.reset.cfg = { canonNan := 0x7FFF#16, forceQuiet := false } ∧ State.reset.cfg.legal = true ∧
    State.reset.pending = [] ∧ State.reset.responses = [] ∧ State.reset.runFault = none ∧
    State.reset.PortsAgree ∧ State.reset.MarkAgrees ∧ State.reset.MarkReserved ∧ State.reset.IllegalIsZero

/-- For every state, if a step completes, CANON_NAN and NAN_EXPAND_FORCE_QUIET are what they were. (00_scope.md section 4, 10_state.md
section 4) -/
def Obligations.StepKeepsParameters : Prop :=
  ∀ s t : State, step s = .next t → t.cfg = s.cfg

/-- Each reserved instruction, whatever its fields, completes with ill = 1, y = 0, one recorded response, the run marked by its first
such event, and nothing else changed; every other instruction completes with ill = 0 and changes y, ill and the record only. The mark is
the model's choice, log entry 4. (60_exceptions.md section 1, 30_encoding.md section 4) -/
def Obligations.OnlyReservedCodesAreIllegal : Prop :=
  (∀ (sgn : SignSel) (a : Bus) (s : State),
      exec (.reservedB sgn a) s = .next (s.answeredIllegal 0xB#4) ∧ exec (.reservedC sgn a) s = .next (s.answeredIllegal 0xC#4) ∧
        exec (.reservedD sgn a) s = .next (s.answeredIllegal 0xD#4) ∧ exec (.reservedE sgn a) s = .next (s.answeredIllegal 0xE#4) ∧
        exec (.reservedF sgn a) s = .next (s.answeredIllegal 0xF#4)) ∧
    ∀ (i : Instr) (s : State), i.op.toNat < 0xB → ∃ y, Answers i s y

/-- The response an instruction shows is the same from every two states with the same parameters; in particular it is the same after any
other instruction has run. (10_state.md section 1, 20_memory.md section 3, 45_laws.md) -/
def Obligations.ResponseIgnoresHistory : Prop :=
  ∀ (i : Instr) (s : State),
    (∀ s' : State, s'.cfg = s.cfg → shown (exec i s') = shown (exec i s)) ∧
      ∀ (j : Instr) (t : State), exec j s = .next t → shown (exec i t) = shown (exec i s)

/-- The half operations read a[15:0] only (ISINF also sgn), S2H reads a only, INF reads the sign of sgn only, and NAN and the reserved
codes read nothing. (30_encoding.md section 3, 93_implementation_defined.md section 1) -/
def Obligations.IgnoredFieldsAreIgnored : Prop :=
  ∀ (s : State) (sgn sgn' : SignSel) (a a' : Bus),
    (a.extractLsb' 0 16 = a'.extractLsb' 0 16 →
      shown (exec (.h2s sgn a) s) = shown (exec (.h2s sgn' a') s) ∧
      shown (exec (.frombits sgn a) s) = shown (exec (.frombits sgn' a') s) ∧
      shown (exec (.isnan sgn a) s) = shown (exec (.isnan sgn' a') s) ∧
      shown (exec (.isinf sgn a) s) = shown (exec (.isinf sgn a') s) ∧
      shown (exec (.isfinite sgn a) s) = shown (exec (.isfinite sgn' a') s) ∧
      shown (exec (.isnormal sgn a) s) = shown (exec (.isnormal sgn' a') s) ∧
      shown (exec (.signbit sgn a) s) = shown (exec (.signbit sgn' a') s) ∧
      shown (exec (.classify sgn a) s) = shown (exec (.classify sgn' a') s)) ∧
    shown (exec (.s2h sgn a) s) = shown (exec (.s2h sgn' a) s) ∧
    shown (exec (.nan sgn a) s) = shown (exec (.nan sgn' a') s) ∧
    (sgn.getLsbD 3 = sgn'.getLsbD 3 → shown (exec (.inf sgn a) s) = shown (exec (.inf sgn' a') s)) ∧
    shown (exec (.reservedB sgn a) s) = shown (exec (.reservedB sgn' a') s) ∧
    shown (exec (.reservedC sgn a) s) = shown (exec (.reservedC sgn' a') s) ∧
    shown (exec (.reservedD sgn a) s) = shown (exec (.reservedD sgn' a') s) ∧
    shown (exec (.reservedE sgn a) s) = shown (exec (.reservedE sgn' a') s) ∧
    shown (exec (.reservedF sgn a) s) = shown (exec (.reservedF sgn' a') s)

/-- After S2H, FROMBITS, NAN and INF, y[31:16] = 0; after the five predicates, y[31:1] = 0; after CLASS, y[31:7] = 0; after a reserved
code, y = 0. (30_encoding.md section 3, 10_state.md section 3) -/
def Obligations.ResultsAreZeroExtended : Prop :=
  ∀ (i : Instr) (s t : State), exec i s = .next t →
    (i.op ∈ [0x1#4, 0x2#4, 0x9#4, 0xA#4] → t.y.toNat < 2 ^ 16) ∧
      (i.op ∈ [0x3#4, 0x4#4, 0x5#4, 0x6#4, 0x7#4] → t.y.toNat < 2) ∧
      (i.op = 0x8#4 → t.y.toNat < 2 ^ 7) ∧ (0xB ≤ i.op.toNat → t.y.toNat = 0)

/-- When he = 31 and hm = 0, H2S answers {hs, 0xFF, 23 zeros}. (R103) -/
def Obligations.H2sInfinity : Prop :=
  ∀ (s : State) (sgn : SignSel) (a : Bus), a.extractLsb' 10 5 = 31#5 → a.extractLsb' 0 10 = 0#10 →
    Answers (.h2s sgn a) s (a.extractLsb' 15 1 ++ 0xFF#8 ++ 0#23)

/-- When he = 0 and hm = 0, H2S answers the signed zero: the sign bit only. (R104) -/
def Obligations.H2sZero : Prop :=
  ∀ (s : State) (sgn : SignSel) (a : Bus), a.extractLsb' 10 5 = 0#5 → a.extractLsb' 0 10 = 0#10 →
    Answers (.h2s sgn a) s (a.extractLsb' 15 1 ++ 0#31)

/-- When 1 <= he <= 30, H2S answers {hs, he + 112, hm, 13 zeros}, and he + 112 lies from 113 to 142. (R105) -/
def Obligations.H2sNormal : Prop :=
  ∀ (s : State) (sgn : SignSel) (a : Bus), a.extractLsb' 10 5 ≠ 0#5 → a.extractLsb' 10 5 ≠ 31#5 →
    113 ≤ (a.extractLsb' 10 5).toNat + 112 ∧ (a.extractLsb' 10 5).toNat + 112 ≤ 142 ∧
      Answers (.h2s sgn a) s
        (a.extractLsb' 15 1 ++ BitVec.ofNat 8 ((a.extractLsb' 10 5).toNat + 112) ++ a.extractLsb' 0 10 ++ 0#13)

/-- When he = 31 and hm is not 0, H2S answers {hs, 0xFF, hm, 13 zeros}, with bit 22 set as well when the parameter is 1. (R106) -/
def Obligations.H2sNaN : Prop :=
  ∀ (s : State) (sgn : SignSel) (a : Bus), a.extractLsb' 10 5 = 31#5 → a.extractLsb' 0 10 ≠ 0#10 →
    (s.cfg.forceQuiet = false →
      Answers (.h2s sgn a) s (a.extractLsb' 15 1 ++ 0xFF#8 ++ a.extractLsb' 0 10 ++ 0#13)) ∧
    (s.cfg.forceQuiet = true →
      Answers (.h2s sgn a) s ((a.extractLsb' 15 1 ++ 0xFF#8 ++ a.extractLsb' 0 10 ++ 0#13) ||| 0x00400000#32))

/-- When he = 0 and 2^k <= hm < 2^(k+1), H2S answers {hs, 103 + k, (hm * 2^(23 - k)) mod 2^23}. (R107) -/
def Obligations.H2sSubnormal : Prop :=
  ∀ (s : State) (sgn : SignSel) (a : Bus) (k : Nat), a.extractLsb' 10 5 = 0#5 →
    2 ^ k ≤ (a.extractLsb' 0 10).toNat → (a.extractLsb' 0 10).toNat < 2 ^ (k + 1) →
      k ≤ 9 ∧ Answers (.h2s sgn a) s
        (a.extractLsb' 15 1 ++ BitVec.ofNat 8 (103 + k) ++ BitVec.ofNat 23 ((a.extractLsb' 0 10).toNat * 2 ^ (23 - k)))

/-- For every subnormal half, the loop form gives the same result as the closed form; it takes exactly 10 - k turns, at least one, to
bring the leading 1 to bit 23, and ends with exponent field 103 + k; further turns change nothing of that. (R108) -/
def Obligations.H2sLoopForm : Prop :=
  ∀ (hs : BitVec 1) (hm : BitVec 10), hm ≠ 0#10 →
    h2sSubnormalLoop hs hm = h2sSubnormal hs hm ∧ 1 ≤ 10 - msb hm ∧
      (∀ n, n < 10 - msb hm → (normalizeLoop n ((hm.zeroExtend 24) <<< 13) 113).1.getLsbD 23 = false) ∧
      ∀ n, 10 - msb hm ≤ n →
        (normalizeLoop n ((hm.zeroExtend 24) <<< 13) 113).1.getLsbD 23 = true ∧
          (normalizeLoop n ((hm.zeroExtend 24) <<< 13) 113).2 = 103 + msb hm

/-- For every half and both parameter values: the sign is kept, y[12:0] = 0, the exponent field is 0, 103 to 142 or 255, a zero exponent
field comes with a zero fraction, and zero, finite nonzero, infinity and NaN are kept apart. (40_half_to_single.md section 3) -/
def Obligations.H2sShape : Prop :=
  ∀ (q : Bool) (h : Half),
    (h2s q h).extractLsb' 31 1 = h.extractLsb' 15 1 ∧ (h2s q h).extractLsb' 0 13 = 0#13 ∧
      (let e := ((h2s q h).extractLsb' 23 8).toNat; e = 0 ∨ (103 ≤ e ∧ e ≤ 142) ∨ e = 255) ∧
      ((h2s q h).extractLsb' 23 8 = 0#8 → (h2s q h).extractLsb' 0 23 = 0#23) ∧
      (isZero h = true ↔ (h2s q h).extractLsb' 0 31 = 0#31) ∧
      (isFinite h = false ↔ (h2s q h).extractLsb' 23 8 = 255#8) ∧
      (isNaN h = true ↔ (h2s q h).extractLsb' 23 8 = 255#8 ∧ (h2s q h).extractLsb' 0 23 ≠ 0#23)

/-- With NAN_EXPAND_FORCE_QUIET = 0 equal results come from equal halves; with 1 they come from equal halves or from two NaNs that
differ in bit 9 only. (40_half_to_single.md section 3, 93_implementation_defined.md section 3) -/
def Obligations.H2sCollisions : Prop :=
  ∀ h h' : Half,
    (h2s false h = h2s false h' ↔ h = h') ∧
      (h2s true h = h2s true h' ↔
        h = h' ∨ (isNaN h = true ∧ isNaN h' = true ∧ h ||| 0x0200#16 = h' ||| 0x0200#16))

/-- For every half that is no NaN, H2S of it denotes the same extended real number, with the same sign of zero; for every NaN, H2S of
it is a NaN with the same sign bit; for both values of NAN_EXPAND_FORCE_QUIET. The number a pattern denotes is read from R15 as log
entry 12 says (DEDUCED). (40_half_to_single.md R112 and section 3, 00_scope.md section 5) -/
def Obligations.H2sPreservesValue : Prop :=
  ∀ (q : Bool) (h : Half),
    (halfValue h ≠ .nan → singleValue (h2s q h) = halfValue h) ∧
      (halfValue h = .nan → singleValue (h2s q h) = .nan ∧ singleSign (h2s q h) = halfSign h)

/-- When fe = 255, S2H answers the infinity of the sign if fm = 0, and otherwise the NaN of the sign whose significand field is
fm[22:13] with bit 9 set; no rounding takes place. (R123) -/
def Obligations.S2hInfinityAndNaN : Prop :=
  ∀ (s : State) (sgn : SignSel) (a : Bus), a.extractLsb' 23 8 = 255#8 →
    (a.extractLsb' 0 23 = 0#23 → Answers (.s2h sgn a) s (0#16 ++ a.extractLsb' 31 1 ++ 0b11111#5 ++ 0#10)) ∧
      (a.extractLsb' 0 23 ≠ 0#23 →
        Answers (.s2h sgn a) s (0#16 ++ a.extractLsb' 31 1 ++ 0b11111#5 ++ (a.extractLsb' 13 10 ||| 0x200#10)))

/-- When 143 <= fe <= 254, S2H answers the infinity of the sign, whatever fm is. (R125) -/
def Obligations.S2hOverflow : Prop :=
  ∀ (s : State) (sgn : SignSel) (a : Bus), 143 ≤ (a.extractLsb' 23 8).toNat → (a.extractLsb' 23 8).toNat ≤ 254 →
    Answers (.s2h sgn a) s (0#16 ++ a.extractLsb' 31 1 ++ 0b11111#5 ++ 0#10)

/-- When fe <= 101, S2H answers the zero of the sign; and for every shift amount of 25 or more the general underflow formula gives that
zero too. (R126) -/
def Obligations.S2hFlush : Prop :=
  (∀ (s : State) (sgn : SignSel) (a : Bus), (a.extractLsb' 23 8).toNat ≤ 101 →
      Answers (.s2h sgn a) s (0#16 ++ a.extractLsb' 31 1 ++ 0#15)) ∧
    ∀ (fs : BitVec 1) (fm : BitVec 23) (sh : Nat), 25 ≤ sh → s2hUnderflow fs fm sh = fs ++ 0#15

/-- When 102 <= fe <= 112, with c = 0x800000 + fm and sh = 126 - fe, S2H answers the sign and q + inc, where q is c shifted right by sh
and inc the rounding increment of its discarded bits; q + inc is at most 0x400. For sh up to 23, q lies from 2^(23 - sh) to 2^(24 - sh)
- 1, and for sh = 24 it is 0. (R127) -/
def Obligations.S2hSubnormal : Prop :=
  ∀ (s : State) (sgn : SignSel) (a : Bus), 102 ≤ (a.extractLsb' 23 8).toNat → (a.extractLsb' 23 8).toNat ≤ 112 →
    let c := 0x800000 + (a.extractLsb' 0 23).toNat
    let sh := 126 - (a.extractLsb' 23 8).toNat
    let q := c / 2 ^ sh
    let inc := if c / 2 ^ (sh - 1) % 2 = 1 ∧ (c % 2 ^ (sh - 1) ≠ 0 ∨ q % 2 = 1) then 1 else 0
    q < 2 ^ (24 - sh) ∧ (sh ≤ 23 → 2 ^ (23 - sh) ≤ q) ∧ q + inc ≤ 0x400 ∧
      Answers (.s2h sgn a) s (BitVec.ofNat 32 ((a.extractLsb' 31 1).toNat * 0x8000 + (q + inc)))

/-- When 113 <= fe <= 142, with q = fm shifted right by 13, S2H answers ({fs, fe - 112, q}) + inc, inc being the rounding increment of
the 13 discarded bits; the sum without its sign is at most 0x7C00. (R129) -/
def Obligations.S2hNormal : Prop :=
  ∀ (s : State) (sgn : SignSel) (a : Bus), 113 ≤ (a.extractLsb' 23 8).toNat → (a.extractLsb' 23 8).toNat ≤ 142 →
    let fm := (a.extractLsb' 0 23).toNat
    let q := fm / 2 ^ 13
    let inc := if fm / 2 ^ 12 % 2 = 1 ∧ (fm % 2 ^ 12 ≠ 0 ∨ q % 2 = 1) then 1 else 0
    ((a.extractLsb' 23 8).toNat - 112) * 2 ^ 10 + q + inc ≤ 0x7C00 ∧
      Answers (.s2h sgn a) s
        (BitVec.ofNat 32 ((a.extractLsb' 31 1).toNat * 0x8000 + (((a.extractLsb' 23 8).toNat - 112) * 2 ^ 10 + q + inc)))

/-- For every pattern v and every shift n of at least 1, the increment computed from the first discarded bit, the lower ones and the
last kept bit is 1 exactly when the discarded part is more than half of the last kept place, or exactly half with an odd kept value.
(R128) -/
def Obligations.RoundIncrementIsNearestEven : Prop :=
  ∀ (w : Nat) (v : BitVec w) (n : Nat), 1 ≤ n →
    (roundIncrement (firstDiscarded v n) (lowerDiscarded v n) ((v >>> n).getLsbD 0) = true ↔
      2 ^ n < 2 * (v.toNat % 2 ^ n) ∨ (2 * (v.toNat % 2 ^ n) = 2 ^ n ∧ v.toNat / 2 ^ n % 2 = 1))

/-- For every single f, S2H(f)[15] = f[31], so SIGNBIT of it is f[31]; for every half h and both parameter values, H2S(h)[31] = h[15].
(R182, R122, R102) -/
def Obligations.ConversionsKeepSign : Prop :=
  (∀ f : Single, (s2h f).getLsbD 15 = f.getLsbD 31 ∧ signbit (s2h f) = f.getLsbD 31) ∧
    ∀ (q : Bool) (h : Half), (h2s q h).getLsbD 31 = h.getLsbD 15

/-- For both values of NAN_EXPAND_FORCE_QUIET: S2H(H2S(h)) = h for every h that is no NaN or is a NaN with h[9] = 1; it is h with bit 9
set for every other h; and those others are exactly the patterns 0x7C01 to 0x7DFF and 0xFC01 to 0xFDFF. (R184) -/
def Obligations.RoundTripThroughSingle : Prop :=
  ∀ (q : Bool) (h : Half),
    (isNaN h = false ∨ h.getLsbD 9 = true → s2h (h2s q h) = h) ∧
      (isNaN h = true → h.getLsbD 9 = false → s2h (h2s q h) = h ||| 0x0200#16) ∧
      (isNaN h = true ∧ h.getLsbD 9 = false ↔
        (0x7C01 ≤ h.toNat ∧ h.toNat ≤ 0x7DFF) ∨ (0xFC01 ≤ h.toNat ∧ h.toNat ≤ 0xFDFF))

/-- For every single f, S2H(H2S(S2H(f))) = S2H(f); for every half h, H2S(S2H(H2S(h))) = H2S(h'), h' being h with bit 9 set if h is a NaN
and h otherwise; for both values of NAN_EXPAND_FORCE_QUIET. (R188) -/
def Obligations.RoundTripIsIdempotent : Prop :=
  ∀ q : Bool, (∀ f : Single, s2h (h2s q (s2h f)) = s2h f) ∧
    ∀ h : Half, h2s q (s2h (h2s q h)) = h2s q (if isNaN h = true then h ||| 0x0200#16 else h)

/-- For every single that is no NaN, as numbers: an infinity gives the infinity of its sign; a magnitude of at least 65520 gives the
infinity of its sign; a smaller one gives a finite half of its sign no finite half is nearer than, its bit 0 being 0 where another is
as near; a magnitude of at most 2^-25 gives zero. The number a pattern denotes is read from R15 as log entry 12 says (DEDUCED).
(41_single_to_half.md R133 and section 4, 00_scope.md section 5) -/
def Obligations.S2hIsNearestEven : Prop :=
  ∀ (f : Single) (neg : Bool),
    (singleValue f = .infinity neg → halfValue (s2h f) = .infinity neg) ∧
      ∀ m : ℚ, singleValue f = .finite neg m →
        (65520 ≤ m → halfValue (s2h f) = .infinity neg) ∧
          (m < 65520 → ∃ m', halfValue (s2h f) = .finite neg m' ∧
            ∀ (h : Half) (u v v' : ℚ), (halfValue h).number = some u → (singleValue f).number = some v →
              (halfValue (s2h f)).number = some v' →
                |v' - v| ≤ |u - v| ∧ (|v' - v| = |u - v| → u ≠ v' → (s2h f).getLsbD 0 = false)) ∧
          (m ≤ 2 ^ (-25 : ℤ) → halfValue (s2h f) = .finite neg 0)

/-- For two singles of one sign that are no NaN, a magnitude pattern at most as large gives a half magnitude pattern at most as large.
(41_single_to_half.md section 3) -/
def Obligations.S2hIsMonotone : Prop :=
  ∀ f g : Single, f.getLsbD 31 = g.getLsbD 31 → f.toNat % 2 ^ 31 ≤ g.toNat % 2 ^ 31 → g.toNat % 2 ^ 31 ≤ 0x7F800000 →
    (s2h f).toNat % 2 ^ 15 ≤ (s2h g).toNat % 2 ^ 15

/-- For every single f with magnitude pattern g = f[30:0]: the rows of the spec's threshold table, from zero at 0x33000000 and below to
infinity from 0x477FF000 to 0x7F800000. (41_single_to_half.md section 3, 45_laws.md) -/
def Obligations.S2hThresholds : Prop :=
  ∀ f : Single,
    let g := f.toNat % 2 ^ 31
    let r := (s2h f).toNat % 2 ^ 15
    (g ≤ 0x33000000 → r = 0x0000) ∧ (0x33000001 ≤ g → g ≤ 0x33BFFFFF → r = 0x0001) ∧
      (g = 0x33C00000 → r = 0x0002) ∧ (g = 0x34200000 → r = 0x0002) ∧ (g = 0x34200001 → r = 0x0003) ∧
      (0x387FA001 ≤ g → g ≤ 0x387FDFFF → r = 0x03FF) ∧ (0x387FE000 ≤ g → g ≤ 0x38801000 → r = 0x0400) ∧
      (0x3F7FF000 ≤ g → g ≤ 0x3F801000 → r = 0x3C00) ∧ (0x477FD001 ≤ g → g ≤ 0x477FEFFF → r = 0x7BFF) ∧
      (0x477FF000 ≤ g → g ≤ 0x7F800000 → r = 0x7C00)

/-- S2H gives a NaN exactly for a NaN, and then a quiet one; an infinity exactly for an infinity or a magnitude of at least 65520; a
zero exactly for a magnitude of at most 2^-25; and its image is every half but the NaNs with bit 9 clear. (45_laws.md,
41_single_to_half.md section 3) -/
def Obligations.S2hClasses : Prop :=
  (∀ f : Single,
      (isNaN (s2h f) = true ↔ 0x7F800000 < f.toNat % 2 ^ 31) ∧
        (isNaN (s2h f) = true → (s2h f).getLsbD 9 = true) ∧
        (isInf (s2h f) 0#4 = true ↔ 0x477FF000 ≤ f.toNat % 2 ^ 31 ∧ f.toNat % 2 ^ 31 ≤ 0x7F800000) ∧
        (isZero (s2h f) = true ↔ f.toNat % 2 ^ 31 ≤ 0x33000000)) ∧
    ∀ h : Half, (∃ f, s2h f = h) ↔ ¬ (isNaN h = true ∧ h.getLsbD 9 = false)

/-- The request with op = 0x3 is ISNAN, and it answers 1 exactly when a[14:10] is all ones and a[9:0] is not zero, else 0, whatever sgn
and a[31:16] are. (R150) -/
def Obligations.IsnanAnswers : Prop :=
  ∀ (s : State) (sgn : SignSel) (a : Bus),
    decode (0x3#4 ++ sgn ++ a : RequestWord) = .isnan sgn a ∧
      Answers (.isnan sgn a) s (if a.extractLsb' 10 5 = 31#5 ∧ a.extractLsb' 0 10 ≠ 0#10 then 1#32 else 0#32)

/-- The request with op = 0x4 is ISINF; it answers 1 exactly for the positive infinity when the selector is positive, for the negative
infinity when it is negative, and for either when it is zero; else 0. (R151) -/
def Obligations.IsinfAnswers : Prop :=
  ∀ (s : State) (sgn : SignSel) (a : Bus),
    decode (0x4#4 ++ sgn ++ a : RequestWord) = .isinf sgn a ∧
      (0 < sgn.toInt → Answers (.isinf sgn a) s (if a.extractLsb' 0 16 = 0x7C00#16 then 1#32 else 0#32)) ∧
      (sgn.toInt < 0 → Answers (.isinf sgn a) s (if a.extractLsb' 0 16 = 0xFC00#16 then 1#32 else 0#32)) ∧
      (sgn.toInt = 0 → Answers (.isinf sgn a) s
        (if a.extractLsb' 0 16 = 0x7C00#16 ∨ a.extractLsb' 0 16 = 0xFC00#16 then 1#32 else 0#32))

/-- The request with op = 0x5 is ISFINITE, and it answers 1 exactly when a[14:10] is not all ones, else 0. (R152) -/
def Obligations.IsfiniteAnswers : Prop :=
  ∀ (s : State) (sgn : SignSel) (a : Bus),
    decode (0x5#4 ++ sgn ++ a : RequestWord) = .isfinite sgn a ∧
      Answers (.isfinite sgn a) s (if a.extractLsb' 10 5 ≠ 31#5 then 1#32 else 0#32)

/-- The request with op = 0x6 is ISNORMAL, and it answers 1 exactly when a[14:10] lies from 1 to 30, else 0. (R153) -/
def Obligations.IsnormalAnswers : Prop :=
  ∀ (s : State) (sgn : SignSel) (a : Bus),
    decode (0x6#4 ++ sgn ++ a : RequestWord) = .isnormal sgn a ∧
      Answers (.isnormal sgn a) s (if 1 ≤ (a.extractLsb' 10 5).toNat ∧ (a.extractLsb' 10 5).toNat ≤ 30 then 1#32 else 0#32)

/-- The request with op = 0x7 is SIGNBIT, and it answers 1 exactly when a[15] is 1, else 0. (R154) -/
def Obligations.SignbitAnswers : Prop :=
  ∀ (s : State) (sgn : SignSel) (a : Bus),
    decode (0x7#4 ++ sgn ++ a : RequestWord) = .signbit sgn a ∧
      Answers (.signbit sgn a) s (if a.getLsbD 15 = true then 1#32 else 0#32)

/-- The request with op = 0x8 is CLASS; y is the class value of the spec's table for zero, subnormal, normal, infinity and NaN (0x24,
0x44, 0x0C, 0x02, 0x01), plus 0x10 when the sign bit is set. (42_classifier.md section 2, 42_classifier.md section 3) -/
def Obligations.ClassAnswers : Prop :=
  ∀ (s : State) (sgn : SignSel) (a : Bus),
    decode (0x8#4 ++ sgn ++ a : RequestWord) = .classify sgn a ∧
      Answers (.classify sgn a) s
        ((if a.extractLsb' 10 5 = 31#5 then (if a.extractLsb' 0 10 = 0#10 then 0x02#32 else 0x01#32)
          else if a.extractLsb' 10 5 = 0#5 then (if a.extractLsb' 0 10 = 0#10 then 0x24#32 else 0x44#32)
          else 0x0C#32) + (if a.getLsbD 15 then 0x10#32 else 0x00#32))

/-- For every half p exactly one of IsNaN, IsInf under 0, IsZero, IsSubnormal and IsNormal is true, IsFinite is the OR of the last
three, and flipping bit 15 keeps each of them and flips Signbit. (45_laws.md, 42_classifier.md section 2) -/
def Obligations.ClassificationIsExclusive : Prop :=
  ∀ p : Half,
    [isNaN p, isInf p 0#4, isZero p, isSubnormal p, isNormal p].count true = 1 ∧
      isFinite p = (isZero p || isSubnormal p || isNormal p) ∧
      isNaN (p ^^^ 0x8000#16) = isNaN p ∧ isInf (p ^^^ 0x8000#16) 0#4 = isInf p 0#4 ∧
      isZero (p ^^^ 0x8000#16) = isZero p ∧ isSubnormal (p ^^^ 0x8000#16) = isSubnormal p ∧
      isNormal (p ^^^ 0x8000#16) = isNormal p ∧ signbit (p ^^^ 0x8000#16) = !signbit p

/-- The request with op = 0x2 is FROMBITS, and it answers a[15:0] with y[31:16] = 0, for every pattern. (R170) -/
def Obligations.FrombitsAnswers : Prop :=
  ∀ (s : State) (sgn : SignSel) (a : Bus),
    decode (0x2#4 ++ sgn ++ a : RequestWord) = .frombits sgn a ∧
      Answers (.frombits sgn a) s (0#16 ++ a.extractLsb' 0 16)

/-- The request with op = 0x9 is NAN, and it answers CANON_NAN with y[31:16] = 0 whatever its fields are; in a legal configuration that
pattern is a NaN; by default it is 0x7FFF. (43_constructors.md, 00_scope.md section 4) -/
def Obligations.NanAnswers : Prop :=
  ∀ (s : State) (sgn : SignSel) (a : Bus),
    decode (0x9#4 ++ sgn ++ a : RequestWord) = .nan sgn a ∧
      Answers (.nan sgn a) s (0#16 ++ s.cfg.canonNan) ∧
      (s.cfg.legal = true → isNaN s.cfg.canonNan = true) ∧
      (s.cfg = Config.default → Answers (.nan sgn a) s 0x00007FFF#32)

/-- For every configuration that meets the constraint on CANON_NAN, IsNaN of the pattern is true and IsFinite, IsNormal and IsInf under
every selector are false. (00_scope.md section 4, 43_constructors.md) -/
def Obligations.CanonicalNanIsNaN : Prop :=
  ∀ c : Config, c.legal = true →
    isNaN c.canonNan = true ∧ isFinite c.canonNan = false ∧ isNormal c.canonNan = false ∧
      ∀ sgn : SignSel, isInf c.canonNan sgn = false

/-- The request with op = 0xA is INF; it answers 0xFC00 for a negative selector and 0x7C00 for zero or a positive one, whatever a is.
(R173) -/
def Obligations.InfAnswers : Prop :=
  ∀ (s : State) (sgn : SignSel) (a : Bus),
    decode (0xA#4 ++ sgn ++ a : RequestWord) = .inf sgn a ∧
      Answers (.inf sgn a) s (if sgn.toInt < 0 then 0x0000FC00#32 else 0x00007C00#32)

/-- For every selector: IsInf(Inf(sgn), sgn) and IsInf(Inf(sgn), 0) are true; IsInf(Inf(sgn), s') is false for nonzero selectors of
opposite sign; for sgn = 0 it is true exactly when s' is not negative; no infinity is finite or normal. (43_constructors.md) -/
def Obligations.ConstructorsMeetPredicates : Prop :=
  ∀ sgn sgn' : SignSel,
    isInf (infPattern sgn) sgn = true ∧ isInf (infPattern sgn) 0#4 = true ∧
      ((0 < sgn.toInt ∧ sgn'.toInt < 0) ∨ (sgn.toInt < 0 ∧ 0 < sgn'.toInt) → isInf (infPattern sgn) sgn' = false) ∧
      (isInf (infPattern 0#4) sgn' = true ↔ 0 ≤ sgn'.toInt) ∧
      isFinite (infPattern sgn) = false ∧ isNormal (infPattern sgn) = false

/-- H2S and S2H exchange the infinities of the two formats; H2S(0x7FFF) = 0x7FFFE000 under both parameter values; S2H(f) = 0x7FFF
exactly for the 8192 patterns 0x7FFFE000 to 0x7FFFFFFF and the 8192 patterns 0x7FBFE000 to 0x7FBFFFFF. (R175) -/
def Obligations.ConstantsConvert : Prop :=
  (∀ q : Bool, h2s q 0x7C00#16 = 0x7F800000#32 ∧ h2s q 0xFC00#16 = 0xFF800000#32 ∧ h2s q 0x7FFF#16 = 0x7FFFE000#32) ∧
    s2h 0x7F800000#32 = 0x7C00#16 ∧ s2h 0xFF800000#32 = 0xFC00#16 ∧
    ∀ f : Single, s2h f = 0x7FFF#16 ↔
      (0x7FFFE000 ≤ f.toNat ∧ f.toNat ≤ 0x7FFFFFFF) ∨ (0x7FBFE000 ≤ f.toNat ∧ f.toNat ≤ 0x7FBFFFFF)

/-- For every selector, sgn_neg, sgn_zero and sgn_pos hold exactly when the two's complement integer it denotes is below, at or above
zero. (30_encoding.md section 3) -/
def Obligations.SignSelectorTrichotomy : Prop :=
  ∀ sgn : SignSel,
    (sgnNeg sgn = true ↔ sgn.toInt < 0) ∧ (sgnZero sgn = true ↔ sgn.toInt = 0) ∧ (sgnPos sgn = true ↔ 0 < sgn.toInt)

/-- For every request word the disassembler's line assembles to a literal request whose word is that of the instruction with its ignored
fields cleared; where the comment 'ignored bits set' is absent, it is the word itself. (30_encoding.md section 6) -/
def Obligations.DisassembleThenAssemble : Prop :=
  ∀ w : RequestWord,
    ∃ (op : OpCode) (sgn : SignSel) (a : Bus),
      assemble (disassemble w).1 = some ⟨op, sgn, .lit a⟩ ∧
        (op ++ sgn ++ a : RequestWord) = encode (decode w).clearIgnored ∧
        ((disassemble w).2 = false ↔ (op ++ sgn ++ a : RequestWord) = w)
end

