-- ==== Sys2Proof/Laws/Encoding.lean ====
section
/-! SUPPORT. The request word and its fields. -/

namespace Sys2Proof

theorem opField_requestWord (op : OpCode) (sgn : SignSel) (a : Bus) : opField (requestWord op sgn a) = op := by
  apply BitVec.eq_of_getLsbD_eq
  intro i hi
  simp only [opField, requestWord, BitVec.getLsbD_extractLsb', BitVec.getLsbD_append]
  have h1 : ¬ 36 + i < 32 := by omega
  have h2 : ¬ 36 + i < 32 + 4 := by omega
  have h3 : ¬ 36 + i - 32 < 4 := by omega
  have h4 : 36 + i - 32 - 4 = i := by omega
  simp [hi, h1, h3, h4]

theorem sgnField_requestWord (op : OpCode) (sgn : SignSel) (a : Bus) : sgnField (requestWord op sgn a) = sgn := by
  apply BitVec.eq_of_getLsbD_eq
  intro i hi
  simp only [sgnField, requestWord, BitVec.getLsbD_extractLsb', BitVec.getLsbD_append]
  have h1 : ¬ 32 + i < 32 := by omega
  have h3 : 32 + i - 32 < 4 := by omega
  have h4 : 32 + i - 32 = i := by omega
  simp [hi, h1, h4]

theorem aField_requestWord (op : OpCode) (sgn : SignSel) (a : Bus) : aField (requestWord op sgn a) = a := by
  apply BitVec.eq_of_getLsbD_eq
  intro i hi
  simp only [aField, requestWord, BitVec.getLsbD_extractLsb', BitVec.getLsbD_append, Nat.zero_add]
  simp [hi]

theorem requestWord_fields (w : RequestWord) : requestWord (opField w) (sgnField w) (aField w) = w := by
  apply BitVec.eq_of_getLsbD_eq
  intro i hi
  simp only [opField, sgnField, aField, requestWord, BitVec.getLsbD_extractLsb', BitVec.getLsbD_append]
  by_cases h1 : i < 32
  · simp [h1]
  · by_cases h2 : i - 32 < 4
    · have h : 32 + (i - 32) = i := by omega
      simp [h1, h2, h]
    · have h : 36 + (i - 32 - 4) = i := by omega
      have h3 : i - 32 - 4 < 4 := by omega
      simp [h1, h2, h3, h]

/-- The operation code, the sign selector and the operand of a decoded request are the request's own. -/
theorem decodeFields_op (op : OpCode) (sgn : SignSel) (a : Bus) : (decodeFields op sgn a).op = op := by
  revert op; intro op
  obtain ⟨n, hn⟩ : ∃ n, n = op.toNat := ⟨_, rfl⟩
  have hlt : op.toNat < 16 := op.isLt
  apply BitVec.eq_of_toNat_eq
  unfold decodeFields
  rw [← hn] at hlt ⊢
  interval_cases n <;> rfl

end Sys2Proof
end

