-- ==== Sys2Proof/Laws/Patterns.lean ====
section
/-! SUPPORT. The fields of half and single patterns and the pieces the conversions are made of. -/

namespace Sys2Proof.Machine

/-- `00_scope.md` R12: `2^k ≤ m < 2^(k+1)` for `k = msb(m)`. -/
theorem msb_spec {w : Nat} (m : BitVec w) (h : m ≠ 0#w) : 2 ^ msb m ≤ m.toNat ∧ m.toNat < 2 ^ (msb m + 1) := by
  have h0 : m.toNat ≠ 0 := fun hz => h (BitVec.eq_of_toNat_eq (by simpa using hz))
  exact ⟨Nat.log2_self_le h0, Nat.lt_log2_self⟩

theorem halfSign_toNat (h : Half) : (halfSign h).toNat = h.toNat / 2 ^ 15 := by
  have := h.isLt
  simp [halfSign, BitVec.extractLsb'_toNat, Nat.shiftRight_eq_div_pow]; omega

theorem halfExp_toNat (h : Half) : (halfExp h).toNat = h.toNat / 2 ^ 10 % 2 ^ 5 := by
  simp [halfExp, BitVec.extractLsb'_toNat, Nat.shiftRight_eq_div_pow]

theorem halfSig_toNat (h : Half) : (halfSig h).toNat = h.toNat % 2 ^ 10 := by
  simp [halfSig, BitVec.extractLsb'_toNat]

theorem singleSign_toNat (f : Single) : (singleSign f).toNat = f.toNat / 2 ^ 31 := by
  have := f.isLt
  simp [singleSign, BitVec.extractLsb'_toNat, Nat.shiftRight_eq_div_pow]; omega

theorem singleExp_toNat (f : Single) : (singleExp f).toNat = f.toNat / 2 ^ 23 % 2 ^ 8 := by
  simp [singleExp, BitVec.extractLsb'_toNat, Nat.shiftRight_eq_div_pow]

theorem singleSig_toNat (f : Single) : (singleSig f).toNat = f.toNat % 2 ^ 23 := by
  simp [singleSig, BitVec.extractLsb'_toNat]

theorem packHalf_toNat (s : BitVec 1) (e : BitVec 5) (m : BitVec 10) :
    (packHalf s e m).toNat = s.toNat * 2 ^ 15 + e.toNat * 2 ^ 10 + m.toNat := by
  have h1 := s.isLt; have h2 := e.isLt; have h3 := m.isLt
  simp only [packHalf, BitVec.toNat_append]
  rw [← Nat.shiftLeft_add_eq_or_of_lt h3, ← Nat.shiftLeft_add_eq_or_of_lt h2]
  simp only [Nat.shiftLeft_eq]; omega

theorem packSingle_toNat (s : BitVec 1) (e : BitVec 8) (m : BitVec 23) :
    (packSingle s e m).toNat = s.toNat * 2 ^ 31 + e.toNat * 2 ^ 23 + m.toNat := by
  have h1 := s.isLt; have h2 := e.isLt; have h3 := m.isLt
  simp only [packSingle, BitVec.toNat_append]
  rw [← Nat.shiftLeft_add_eq_or_of_lt h3, ← Nat.shiftLeft_add_eq_or_of_lt h2]
  simp only [Nat.shiftLeft_eq]; omega

/-- A half is its three fields (R28). -/
theorem packHalf_fields (h : Half) : packHalf (halfSign h) (halfExp h) (halfSig h) = h := by
  have := h.isLt
  apply BitVec.eq_of_toNat_eq
  rw [packHalf_toNat, halfSign_toNat, halfExp_toNat, halfSig_toNat]; omega

/-- A single is its three fields (R29). -/
theorem packSingle_fields (f : Single) : packSingle (singleSign f) (singleExp f) (singleSig f) = f := by
  have := f.isLt
  apply BitVec.eq_of_toNat_eq
  rw [packSingle_toNat, singleSign_toNat, singleExp_toNat, singleSig_toNat]; omega

theorem halfSign_packHalf (s : BitVec 1) (e : BitVec 5) (m : BitVec 10) : halfSign (packHalf s e m) = s := by
  have h1 := s.isLt; have h2 := e.isLt; have h3 := m.isLt
  apply BitVec.eq_of_toNat_eq; rw [halfSign_toNat, packHalf_toNat]; omega

theorem halfExp_packHalf (s : BitVec 1) (e : BitVec 5) (m : BitVec 10) : halfExp (packHalf s e m) = e := by
  have h1 := s.isLt; have h2 := e.isLt; have h3 := m.isLt
  apply BitVec.eq_of_toNat_eq; rw [halfExp_toNat, packHalf_toNat]; omega

theorem halfSig_packHalf (s : BitVec 1) (e : BitVec 5) (m : BitVec 10) : halfSig (packHalf s e m) = m := by
  have h1 := s.isLt; have h2 := e.isLt; have h3 := m.isLt
  apply BitVec.eq_of_toNat_eq; rw [halfSig_toNat, packHalf_toNat]; omega

theorem singleSign_packSingle (s : BitVec 1) (e : BitVec 8) (m : BitVec 23) : singleSign (packSingle s e m) = s := by
  have h1 := s.isLt; have h2 := e.isLt; have h3 := m.isLt
  apply BitVec.eq_of_toNat_eq; rw [singleSign_toNat, packSingle_toNat]; omega

theorem singleExp_packSingle (s : BitVec 1) (e : BitVec 8) (m : BitVec 23) : singleExp (packSingle s e m) = e := by
  have h1 := s.isLt; have h2 := e.isLt; have h3 := m.isLt
  apply BitVec.eq_of_toNat_eq; rw [singleExp_toNat, packSingle_toNat]; omega

theorem singleSig_packSingle (s : BitVec 1) (e : BitVec 8) (m : BitVec 23) : singleSig (packSingle s e m) = m := by
  have h1 := s.isLt; have h2 := e.isLt; have h3 := m.isLt
  apply BitVec.eq_of_toNat_eq; rw [singleSig_toNat, packSingle_toNat]; omega

end Sys2Proof.Machine
end

