-- ==== Sys2Proof/Laws/Masks.lean ====
section
/-! SUPPORT. The masks of `00_scope.md` R14 as fields, and the result forms of `30_encoding.md` R66 as numbers. -/

namespace Sys2Proof.Machine

/-- The exponent mask keeps the exponent field. -/
theorem and_expMask (p : Half) : p &&& 0x7C00#16 = packHalf 0#1 (halfExp p) 0#10 := by
  apply BitVec.eq_of_getLsbD_eq
  intro i hi
  interval_cases i <;> simp only [packHalf, halfExp, BitVec.getLsbD_and, BitVec.getLsbD_append,
    BitVec.getLsbD_extractLsb'] <;> simp

/-- The significand mask keeps the significand field. -/
theorem and_sigMask (p : Half) : p &&& 0x03FF#16 = packHalf 0#1 0#5 (halfSig p) := by
  apply BitVec.eq_of_getLsbD_eq
  intro i hi
  interval_cases i <;> simp only [packHalf, halfSig, BitVec.getLsbD_and, BitVec.getLsbD_append,
    BitVec.getLsbD_extractLsb'] <;> simp

/-- The sign mask keeps the sign bit. -/
theorem and_signMask (p : Half) : p &&& 0x8000#16 = packHalf (halfSign p) 0#5 0#10 := by
  apply BitVec.eq_of_getLsbD_eq
  intro i hi
  interval_cases i <;> simp only [packHalf, halfSign, BitVec.getLsbD_and, BitVec.getLsbD_append,
    BitVec.getLsbD_extractLsb'] <;> simp

/-- The magnitude mask of IsZero keeps the two other fields. -/
theorem and_magnitudeMask (p : Half) : p &&& 0x7FFF#16 = packHalf 0#1 (halfExp p) (halfSig p) := by
  apply BitVec.eq_of_getLsbD_eq
  intro i hi
  interval_cases i <;> simp only [packHalf, halfExp, halfSig, BitVec.getLsbD_and, BitVec.getLsbD_append,
    BitVec.getLsbD_extractLsb'] <;> simp

/-- Two halves are equal when their fields are. -/
theorem packHalf_inj {s s' : BitVec 1} {e e' : BitVec 5} {m m' : BitVec 10} :
    packHalf s e m = packHalf s' e' m' ↔ s = s' ∧ e = e' ∧ m = m' := by
  constructor
  · intro h
    exact ⟨by simpa [halfSign_packHalf] using congrArg halfSign h, by simpa [halfExp_packHalf] using congrArg halfExp h,
      by simpa [halfSig_packHalf] using congrArg halfSig h⟩
  · rintro ⟨rfl, rfl, rfl⟩; rfl

theorem halfOperand_toNat (a : Bus) : (halfOperand a).toNat = a.toNat % 2 ^ 16 := by
  simp [halfOperand, BitVec.extractLsb'_toNat]

theorem halfResult_toNat (r : Half) : (halfResult r).toNat = r.toNat := by
  have := r.isLt
  simp [halfResult]; omega

theorem boolResult_toNat (b : Bool) : (boolResult b).toNat = b.toNat := by
  cases b <;> rfl

theorem classResult_toNat (c : BitVec 7) : (classResult c).toNat = c.toNat := by
  have := c.isLt
  simp [classResult]; omega

end Sys2Proof.Machine
end

