-- ==== Sys2Proof/Laws/State.lean ====
section
/-! SUPPORT. One lemma per field and update of State. -/

namespace Sys2Proof.Machine

@[simp] theorem State.present_cfg (s : State) (op : OpCode) (sgn : SignSel) (a : Bus) (rest : Program) :
    (s.present op sgn a rest).cfg = s.cfg := rfl
@[simp] theorem State.present_op (s : State) (op : OpCode) (sgn : SignSel) (a : Bus) (rest : Program) :
    (s.present op sgn a rest).op = op := rfl
@[simp] theorem State.present_sgn (s : State) (op : OpCode) (sgn : SignSel) (a : Bus) (rest : Program) :
    (s.present op sgn a rest).sgn = sgn := rfl
@[simp] theorem State.present_a (s : State) (op : OpCode) (sgn : SignSel) (a : Bus) (rest : Program) :
    (s.present op sgn a rest).a = a := rfl
@[simp] theorem State.present_y (s : State) (op : OpCode) (sgn : SignSel) (a : Bus) (rest : Program) :
    (s.present op sgn a rest).y = s.y := rfl
@[simp] theorem State.present_ill (s : State) (op : OpCode) (sgn : SignSel) (a : Bus) (rest : Program) :
    (s.present op sgn a rest).ill = s.ill := rfl
@[simp] theorem State.present_pending (s : State) (op : OpCode) (sgn : SignSel) (a : Bus) (rest : Program) :
    (s.present op sgn a rest).pending = rest := rfl
@[simp] theorem State.present_responses (s : State) (op : OpCode) (sgn : SignSel) (a : Bus) (rest : Program) :
    (s.present op sgn a rest).responses = s.responses := rfl
@[simp] theorem State.present_runFault (s : State) (op : OpCode) (sgn : SignSel) (a : Bus) (rest : Program) :
    (s.present op sgn a rest).runFault = s.runFault := rfl

@[simp] theorem State.respond_cfg (s : State) (y : Bus) :
    (s.respond y).cfg = s.cfg := rfl
@[simp] theorem State.respond_op (s : State) (y : Bus) :
    (s.respond y).op = s.op := rfl
@[simp] theorem State.respond_sgn (s : State) (y : Bus) :
    (s.respond y).sgn = s.sgn := rfl
@[simp] theorem State.respond_a (s : State) (y : Bus) :
    (s.respond y).a = s.a := rfl
@[simp] theorem State.respond_y (s : State) (y : Bus) :
    (s.respond y).y = y := rfl
@[simp] theorem State.respond_ill (s : State) (y : Bus) :
    (s.respond y).ill = 0#1 := rfl
@[simp] theorem State.respond_pending (s : State) (y : Bus) :
    (s.respond y).pending = s.pending := rfl
@[simp] theorem State.respond_responses (s : State) (y : Bus) :
    (s.respond y).responses = s.responses ++ [{ ill := 0#1, y := y }] := rfl
@[simp] theorem State.respond_runFault (s : State) (y : Bus) :
    (s.respond y).runFault = s.runFault := rfl

@[simp] theorem State.raiseIllegalOp_cfg (s : State) (op : OpCode) :
    (s.raiseIllegalOp op).cfg = s.cfg := rfl
@[simp] theorem State.raiseIllegalOp_op (s : State) (op : OpCode) :
    (s.raiseIllegalOp op).op = s.op := rfl
@[simp] theorem State.raiseIllegalOp_sgn (s : State) (op : OpCode) :
    (s.raiseIllegalOp op).sgn = s.sgn := rfl
@[simp] theorem State.raiseIllegalOp_a (s : State) (op : OpCode) :
    (s.raiseIllegalOp op).a = s.a := rfl
@[simp] theorem State.raiseIllegalOp_y (s : State) (op : OpCode) :
    (s.raiseIllegalOp op).y = 0#32 := rfl
@[simp] theorem State.raiseIllegalOp_ill (s : State) (op : OpCode) :
    (s.raiseIllegalOp op).ill = 1#1 := rfl
@[simp] theorem State.raiseIllegalOp_pending (s : State) (op : OpCode) :
    (s.raiseIllegalOp op).pending = s.pending := rfl
@[simp] theorem State.raiseIllegalOp_responses (s : State) (op : OpCode) :
    (s.raiseIllegalOp op).responses = s.responses ++ [{ ill := 1#1, y := 0#32 }] := rfl
@[simp] theorem State.raiseIllegalOp_runFault (s : State) (op : OpCode) :
    (s.raiseIllegalOp op).runFault = s.runFault.or (some (.illegalOp op)) := rfl

@[simp] theorem State.loadProgram_cfg (s : State) (p : Program) :
    (s.loadProgram p).cfg = s.cfg := rfl
@[simp] theorem State.loadProgram_op (s : State) (p : Program) :
    (s.loadProgram p).op = s.op := rfl
@[simp] theorem State.loadProgram_sgn (s : State) (p : Program) :
    (s.loadProgram p).sgn = s.sgn := rfl
@[simp] theorem State.loadProgram_a (s : State) (p : Program) :
    (s.loadProgram p).a = s.a := rfl
@[simp] theorem State.loadProgram_y (s : State) (p : Program) :
    (s.loadProgram p).y = s.y := rfl
@[simp] theorem State.loadProgram_ill (s : State) (p : Program) :
    (s.loadProgram p).ill = s.ill := rfl
@[simp] theorem State.loadProgram_pending (s : State) (p : Program) :
    (s.loadProgram p).pending = p := rfl
@[simp] theorem State.loadProgram_responses (s : State) (p : Program) :
    (s.loadProgram p).responses = [] := rfl
@[simp] theorem State.loadProgram_runFault (s : State) (p : Program) :
    (s.loadProgram p).runFault = none := rfl

@[simp] theorem State.withFetchWord_cfg (s : State) (nbits w : Nat) :
    (s.withFetchWord nbits w).cfg = s.cfg := rfl
@[simp] theorem State.withFetchWord_op (s : State) (nbits w : Nat) :
    (s.withFetchWord nbits w).op = s.op := rfl
@[simp] theorem State.withFetchWord_sgn (s : State) (nbits w : Nat) :
    (s.withFetchWord nbits w).sgn = s.sgn := rfl
@[simp] theorem State.withFetchWord_a (s : State) (nbits w : Nat) :
    (s.withFetchWord nbits w).a = s.a := rfl
@[simp] theorem State.withFetchWord_y (s : State) (nbits w : Nat) :
    (s.withFetchWord nbits w).y = s.y := rfl
@[simp] theorem State.withFetchWord_ill (s : State) (nbits w : Nat) :
    (s.withFetchWord nbits w).ill = s.ill := rfl
@[simp] theorem State.withFetchWord_pending (s : State) (nbits w : Nat) :
    (s.withFetchWord nbits w).pending = ⟨opField (BitVec.ofNat 40 (w % 2 ^ nbits)), sgnField (BitVec.ofNat 40 (w % 2 ^ nbits)),
      .lit (aField (BitVec.ofNat 40 (w % 2 ^ nbits)))⟩ :: s.pending := rfl
@[simp] theorem State.withFetchWord_responses (s : State) (nbits w : Nat) :
    (s.withFetchWord nbits w).responses = s.responses := rfl
@[simp] theorem State.withFetchWord_runFault (s : State) (nbits w : Nat) :
    (s.withFetchWord nbits w).runFault = s.runFault := rfl

end Sys2Proof.Machine
end

