-- ==== Sys2Proof/Laws/Ops.lean ====
section
/-! SUPPORT. What each shared operation can do, said once. -/

namespace Sys2Proof.Machine

theorem resolve_lit (rs : List Response) (a : Bus) : resolve rs (.lit a) = .ok a := rfl

theorem resolve_result_missing (rs : List Response) (i : Nat) (h : rs[i]? = none) :
    resolve rs (.result i) = .error (.noSuchResponse i) := by
  simp [resolve, h]

theorem resolve_result_illegal (rs : List Response) (i : Nat) (r : Response) (h : rs[i]? = some r) (hr : r.ill = 1#1) :
    resolve rs (.result i) = .error (.dependsOnIllegalOp i) := by
  simp [resolve, h, hr]

theorem resolve_result_legal (rs : List Response) (i : Nat) (r : Response) (h : rs[i]? = some r) (hr : r.ill ≠ 1#1) :
    resolve rs (.result i) = .ok r.y := by
  simp [resolve, h, hr]

/-- If an operand resolves, it is the literal, or the `y` of a recorded response whose `ill` is not 1. -/
theorem resolve_cases {rs : List Response} {o : OperandSource} {a : Bus} (h : resolve rs o = .ok a) :
    o = .lit a ∨ ∃ i r, o = .result i ∧ rs[i]? = some r ∧ r.ill ≠ 1#1 ∧ a = r.y := by
  cases o with
  | lit b => exact .inl (by cases h; rfl)
  | result i =>
    cases hr : rs[i]? with
    | none => rw [resolve_result_missing rs i hr] at h; cases h
    | some r =>
      by_cases hi : r.ill = 1#1
      · rw [resolve_result_illegal rs i r hr hi] at h; cases h
      · rw [resolve_result_legal rs i r hr hi] at h
        exact .inr ⟨i, r, rfl, hr, hi, by cases h; rfl⟩

/-- Every instruction completes, with a legal response or with `IllegalOp` of a reserved code. -/
theorem exec_cases (i : Instr) (s : State) :
    (∃ y, exec i s = .next (s.respond y)) ∨ ∃ op : OpCode, 0xB ≤ op.toNat ∧ exec i s = .next (s.raiseIllegalOp op) := by
  cases i with
  | reservedB => exact .inr ⟨0xB, by decide, rfl⟩
  | reservedC => exact .inr ⟨0xC, by decide, rfl⟩
  | reservedD => exact .inr ⟨0xD, by decide, rfl⟩
  | reservedE => exact .inr ⟨0xE, by decide, rfl⟩
  | reservedF => exact .inr ⟨0xF, by decide, rfl⟩
  | _ => exact .inl ⟨_, rfl⟩

/-- What a step can do: nothing where no request is left, else run the presented request. -/
theorem step_cases {s t : State} (h : step s = .next t) :
    (s.pending = [] ∧ t = s) ∨
      ∃ it rest a, s.pending = it :: rest ∧ resolve s.responses it.operand = .ok a ∧
        exec (decode (requestWord it.op it.sgn a)) (s.present it.op it.sgn a rest) = .next t := by
  unfold step at h
  split at h
  · next hp => exact .inl ⟨hp, by cases h; rfl⟩
  · next it rest hp =>
    split at h
    · cases h
    · next a ha => exact .inr ⟨it, rest, a, hp, ha, h⟩

end Sys2Proof.Machine
end

