-- ==== Sys2Proof/Laws/PerInstr.lean ====
section
/-! SUPPORT. The family TableRow: the word of every instruction lies in its own row of `30_encoding.md` R62. -/

namespace Sys2Proof.Laws.TableRow

/-- The `match` value of an instruction's row, written out from R62 and R67. -/
def rowMatch : Instr → RequestWord
  | .h2s _ _ => 0x0000000000
  | .s2h _ _ => 0x1000000000
  | .frombits _ _ => 0x2000000000
  | .isnan _ _ => 0x3000000000
  | .isinf _ _ => 0x4000000000
  | .isfinite _ _ => 0x5000000000
  | .isnormal _ _ => 0x6000000000
  | .signbit _ _ => 0x7000000000
  | .classify _ _ => 0x8000000000
  | .nan _ _ => 0x9000000000
  | .inf _ _ => 0xA000000000
  | .reservedB _ _ => 0xB000000000
  | .reservedC _ _ => 0xC000000000
  | .reservedD _ _ => 0xD000000000
  | .reservedE _ _ => 0xE000000000
  | .reservedF _ _ => 0xF000000000

/-- `REQ & mask == match` (R62). -/
def Statement (i : Instr) : Prop := encode i &&& 0xF000000000#40 = rowMatch i

/-- The mask of R62 keeps the operation code and clears the two other fields. -/
theorem mask_requestWord (op : OpCode) (sgn : SignSel) (a : Bus) :
    requestWord op sgn a &&& 0xF000000000#40 = requestWord op 0#4 0#32 := by
  apply BitVec.eq_of_getLsbD_eq
  intro i hi
  have hm : (0xF000000000#40).getLsbD i = decide (36 ≤ i) := by
    interval_cases i <;> rfl
  simp only [requestWord, BitVec.getLsbD_and, BitVec.getLsbD_append, hm]
  by_cases h1 : i < 32
  · have : ¬ 36 ≤ i := by omega
    simp [h1, this]
  · by_cases h2 : i - 32 < 4
    · have : ¬ 36 ≤ i := by omega
      simp [h1, h2, this]
    · have : 36 ≤ i := by omega
      simp [h1, h2, this]

theorem h2s (sgn : SignSel) (a : Bus) : Statement (.h2s sgn a) :=
  (mask_requestWord _ _ _).trans (by simp only [Instr.op, rowMatch]; decide)
theorem s2h (sgn : SignSel) (a : Bus) : Statement (.s2h sgn a) :=
  (mask_requestWord _ _ _).trans (by simp only [Instr.op, rowMatch]; decide)
theorem frombits (sgn : SignSel) (a : Bus) : Statement (.frombits sgn a) :=
  (mask_requestWord _ _ _).trans (by simp only [Instr.op, rowMatch]; decide)
theorem isnan (sgn : SignSel) (a : Bus) : Statement (.isnan sgn a) :=
  (mask_requestWord _ _ _).trans (by simp only [Instr.op, rowMatch]; decide)
theorem isinf (sgn : SignSel) (a : Bus) : Statement (.isinf sgn a) :=
  (mask_requestWord _ _ _).trans (by simp only [Instr.op, rowMatch]; decide)
theorem isfinite (sgn : SignSel) (a : Bus) : Statement (.isfinite sgn a) :=
  (mask_requestWord _ _ _).trans (by simp only [Instr.op, rowMatch]; decide)
theorem isnormal (sgn : SignSel) (a : Bus) : Statement (.isnormal sgn a) :=
  (mask_requestWord _ _ _).trans (by simp only [Instr.op, rowMatch]; decide)
theorem signbit (sgn : SignSel) (a : Bus) : Statement (.signbit sgn a) :=
  (mask_requestWord _ _ _).trans (by simp only [Instr.op, rowMatch]; decide)
theorem classify (sgn : SignSel) (a : Bus) : Statement (.classify sgn a) :=
  (mask_requestWord _ _ _).trans (by simp only [Instr.op, rowMatch]; decide)
theorem nan (sgn : SignSel) (a : Bus) : Statement (.nan sgn a) :=
  (mask_requestWord _ _ _).trans (by simp only [Instr.op, rowMatch]; decide)
theorem inf (sgn : SignSel) (a : Bus) : Statement (.inf sgn a) :=
  (mask_requestWord _ _ _).trans (by simp only [Instr.op, rowMatch]; decide)
theorem reservedB (sgn : SignSel) (a : Bus) : Statement (.reservedB sgn a) :=
  (mask_requestWord _ _ _).trans (by simp only [Instr.op, rowMatch]; decide)
theorem reservedC (sgn : SignSel) (a : Bus) : Statement (.reservedC sgn a) :=
  (mask_requestWord _ _ _).trans (by simp only [Instr.op, rowMatch]; decide)
theorem reservedD (sgn : SignSel) (a : Bus) : Statement (.reservedD sgn a) :=
  (mask_requestWord _ _ _).trans (by simp only [Instr.op, rowMatch]; decide)
theorem reservedE (sgn : SignSel) (a : Bus) : Statement (.reservedE sgn a) :=
  (mask_requestWord _ _ _).trans (by simp only [Instr.op, rowMatch]; decide)
theorem reservedF (sgn : SignSel) (a : Bus) : Statement (.reservedF sgn a) :=
  (mask_requestWord _ _ _).trans (by simp only [Instr.op, rowMatch]; decide)

end Sys2Proof.Laws.TableRow
end

