-- ==== Sys2Proof/Laws/Run.lean ====
section
/-! SUPPORT. A run of the machine, one step at a time (the host's `Host.Core.run`). -/

namespace Sys2Proof.Machine

theorem run_zero (s : State) : core.run 0 s = .next s := rfl

/-- A run goes on from the state its first step answers. -/
theorem run_succ_of_next {s t : State} (n : Nat) (h : step s = .next t) : core.run (n + 1) s = core.run n t := by
  have h' : core.step s = .next t := h
  simp only [Host.Core.run, h']

/-- A run stops at the fault of its first step. -/
theorem run_succ_of_fault {s : State} {e : Fault} (n : Nat) (h : step s = .fault e) : core.run (n + 1) s = .fault e := by
  have h' : core.step s = .fault e := h
  simp only [Host.Core.run, h']

end Sys2Proof.Machine
end

