-- ==== Sys2Proof/Machine/AsmText.lean ====
section
/-! DEFINITION. The assembly language of `30_encoding.md` R70 and R71 as text: what the disassembler prints and how a line is read. Text is a
list of characters, which the kernel evaluates. Where R70 leaves the writing open, the reader takes it (DESIGN CHOICE, log entry 10). -/

namespace Sys2Proof.Machine

/-- A mnemonic's letters (R70). -/
def Mnemonic.text : Mnemonic → List Char
  | .h2s => ['H', '2', 'S']
  | .s2h => ['S', '2', 'H']
  | .frombits => ['F', 'R', 'O', 'M', 'B', 'I', 'T', 'S']
  | .isnan => ['I', 'S', 'N', 'A', 'N']
  | .isinf => ['I', 'S', 'I', 'N', 'F']
  | .isfinite => ['I', 'S', 'F', 'I', 'N', 'I', 'T', 'E']
  | .isnormal => ['I', 'S', 'N', 'O', 'R', 'M', 'A', 'L']
  | .signbit => ['S', 'I', 'G', 'N', 'B', 'I', 'T']
  | .classify => ['C', 'L', 'A', 'S', 'S']
  | .nan => ['N', 'A', 'N']
  | .inf => ['I', 'N', 'F']

/-- How a hexadecimal digit below 16 is printed: its letter, if it has one, in capitals as R70 writes them. -/
def hexDigit (d : Nat) : Char := d.digitChar.toUpper

/-- `width` hexadecimal digits of `n`, the most significant first. -/
def hexDigits : Nat → Nat → List Char
  | 0, _ => []
  | width + 1, n => hexDigits width (n / 16) ++ [hexDigit (n % 16)]

/-- A literal with its `0x` (R12, R70). -/
def hexText (width n : Nat) : List Char := '0' :: 'x' :: hexDigits width n

/-- An operand's text (R70). -/
def AsmOperand.text (digits : Nat) : AsmOperand → List Char
  | .hex n => hexText digits n
  | .result i => '$' :: Nat.toDigits 10 i

/-- A sign's text, "written with its sign (`+1`, `0`, `-1`)" (R70). -/
def signText (n : Int) : List Char :=
  if n < 0 then '-' :: Nat.toDigits 10 n.natAbs
  else if n = 0 then ['0']
  else '+' :: Nat.toDigits 10 n.natAbs

/-- The text of a line: `MNEMONIC operand, sign` (R70), a pseudo-operation with its operand (R71), or `.req` and the ten digits of the
word (R60, R70). -/
def AsmLine.text : AsmLine → List Char
  | .op m none none => m.text
  | .op m none (some n) => m.text ++ ' ' :: signText n
  | .op m (some x) none => m.text ++ ' ' :: x.text m.digits
  | .op m (some x) (some n) => m.text ++ ' ' :: x.text m.digits ++ [',', ' '] ++ signText n
  | .tosingle x => ['T', 'O', 'S', 'I', 'N', 'G', 'L', 'E', ' '] ++ x.text 4
  | .fromsingle x => ['F', 'R', 'O', 'M', 'S', 'I', 'N', 'G', 'L', 'E', ' '] ++ x.text 8
  | .ispinf x => ['I', 'S', 'P', 'I', 'N', 'F', ' '] ++ x.text 4
  | .isninf x => ['I', 'S', 'N', 'I', 'N', 'F', ' '] ++ x.text 4
  | .isanyinf x => ['I', 'S', 'A', 'N', 'Y', 'I', 'N', 'F', ' '] ++ x.text 4
  | .pinf => ['P', 'I', 'N', 'F']
  | .ninf => ['N', 'I', 'N', 'F']
  | .req w => ['.', 'r', 'e', 'q', ' '] ++ hexText 10 w.toNat

/-- The comment of R70 on a request whose ignored fields are not zero. -/
def ignoredBitsComment : List Char :=
  [' ', ';', ' ', 'i', 'g', 'n', 'o', 'r', 'e', 'd', ' ', 'b', 'i', 't', 's', ' ', 's', 'e', 't']

/-- What the disassembler prints for a request word (R70). -/
def disassemblyText (w : RequestWord) : List Char :=
  (disassemble w).1.text ++ (if (disassemble w).2 then ignoredBitsComment else [])

/-- The reader undoes `hexDigit`: the digit that is printed as `c`, a letter being read in either case (log entry 10). -/
def hexValue (c : Char) : Option Nat := (List.range 16).find? fun d => hexDigit d == c.toUpper

/-- The value of the digits in base `base`, `acc` standing before them; `_` may separate groups of digits of a hexadecimal literal (R12). R12
says nothing of an underscore that separates none: one at the front, at the end or beside another is passed over (DESIGN CHOICE, log entry
10). A decimal number takes none. -/
def digitsValue (base : Nat) : List Char → Nat → Option Nat
  | [], acc => some acc
  | '_' :: cs, acc => if base = 16 then digitsValue base cs acc else none
  | c :: cs, acc =>
    match hexValue c with
    | none => none
    | some d => if d < base then digitsValue base cs (acc * base + d) else none

/-- A number has at least one digit: no character at all, or underscores alone, are none (DESIGN CHOICE, log entry 10). -/
def numberValue (base : Nat) (cs : List Char) : Option Nat :=
  if cs.all (· == '_') then none else digitsValue base cs 0

/-- `0x...` or `$i` (R70); `i` is read as a decimal number (DESIGN CHOICE, log entry 10). -/
def parseOperand : List Char → Option AsmOperand
  | '0' :: 'x' :: cs => (numberValue 16 cs).map .hex
  | '$' :: cs => (numberValue 10 cs).map .result
  | _ => none

/-- `+n`, `0` or `-n` (R70). A zero with a sign, `+0` or `-0`, is 0, and a number after its sign may have leading zeros (DESIGN CHOICE, log
entry 10); a number other than `0` without a sign is refused, R70 writing it with its sign. -/
def parseSign : List Char → Option Int
  | ['0'] => some 0
  | '+' :: cs => (numberValue 10 cs).map (fun n => (n : Int))
  | '-' :: cs => (numberValue 10 cs).map (fun n => -(n : Int))
  | _ => none

/-- The eleven mnemonics, to look one up by its letters. -/
def allMnemonics : List Mnemonic :=
  [.h2s, .s2h, .frombits, .isnan, .isinf, .isfinite, .isnormal, .signbit, .classify, .nan, .inf]

/-- The words of a line: separated by spaces, a comma a word of its own, all from `;` on left out (R70). The second argument is the word
being read, its last character first. -/
def lineWords : List Char → List Char → List (List Char)
  | [], cur => if cur.isEmpty then [] else [cur.reverse]
  | c :: cs, cur =>
    if c = ';' then (if cur.isEmpty then [] else [cur.reverse])
    else if c = ' ' then (if cur.isEmpty then lineWords cs [] else cur.reverse :: lineWords cs [])
    else if c = ',' then (if cur.isEmpty then [','] :: lineWords cs [] else cur.reverse :: [','] :: lineWords cs [])
    else lineWords cs (c :: cur)

/-- A mnemonic's line: nothing more, an operand, an operand with a comma and a sign, or (INF) a sign alone (R70). -/
def parseMnemonic (m : Mnemonic) : List (List Char) → Option AsmLine
  | [] => some (.op m none none)
  | [x] =>
    if m.digits = 0 then (parseSign x).map fun n => .op m none (some n)
    else (parseOperand x).map fun o => .op m (some o) none
  | [x, [','], n] =>
    match parseOperand x, parseSign n with
    | some o, some k => some (.op m (some o) (some k))
    | _, _ => none
  | _ => none

/-- A pseudo-operation's line (R71), or a raw word (R70). -/
def parseOther : List (List Char) → Option AsmLine
  | [['P', 'I', 'N', 'F']] => some .pinf
  | [['N', 'I', 'N', 'F']] => some .ninf
  | [name, x] =>
    if name = ['.', 'r', 'e', 'q'] then
      match parseOperand x with
      | some (.hex n) => if n < 2 ^ 40 then some (.req (BitVec.ofNat 40 n)) else none
      | _ => none
    else if name = ['T', 'O', 'S', 'I', 'N', 'G', 'L', 'E'] then (parseOperand x).map .tosingle
    else if name = ['F', 'R', 'O', 'M', 'S', 'I', 'N', 'G', 'L', 'E'] then (parseOperand x).map .fromsingle
    else if name = ['I', 'S', 'P', 'I', 'N', 'F'] then (parseOperand x).map .ispinf
    else if name = ['I', 'S', 'N', 'I', 'N', 'F'] then (parseOperand x).map .isninf
    else if name = ['I', 'S', 'A', 'N', 'Y', 'I', 'N', 'F'] then (parseOperand x).map .isanyinf
    else none
  | _ => none

/-- One line of assembly text (R70, R71); none where it has no such form. -/
def parseLine (text : List Char) : Option AsmLine :=
  match lineWords text [] with
  | [] => none
  | name :: rest =>
    match allMnemonics.find? (fun m => m.text == name) with
    | some m => parseMnemonic m rest
    | none => parseOther (name :: rest)

/-- A line of text assembled to a request (R70). -/
def assembleText (text : List Char) : Option ProgramItem := (parseLine text).bind assemble

end Sys2Proof.Machine
end

