-- ==== Sys2Proof/Machine/Digest.lean ====
section
/-! DEFINITION. The byte streams whose digests `45_laws.md` R191 gives, serialised as `20_memory.md` R41 says: the one place where a byte
order exists. The streams are a test method for implementations and no feature of the block (`60_exceptions.md` R220). -/

namespace Sys2Proof.Machine

/-- A half result as bytes: `h[7:0]` then `h[15:8]` (R41). -/
def halfBytes (h : Half) : List (BitVec 8) := [h.extractLsb' 0 8, h.extractLsb' 8 8]

/-- A single result as bytes: `f[7:0]`, `f[15:8]`, `f[23:16]`, `f[31:24]` (R41). -/
def singleBytes (f : Single) : List (BitVec 8) :=
  [f.extractLsb' 0 8, f.extractLsb' 8 8, f.extractLsb' 16 8, f.extractLsb' 24 8]

/-- The stream of `H2S(h)` for `h` from `lo`, `n` patterns in increasing order; the whole stream of R191 is `h2sStream q 0 65536`. -/
def h2sStream (forceQuiet : Bool) (lo n : Nat) : List (BitVec 8) :=
  (List.range' lo n).flatMap fun h => singleBytes (h2s forceQuiet (BitVec.ofNat 16 h))

/-- The stream of `S2H(f)` for `f` from `lo`, `n` patterns in increasing order; the whole stream of R191 is `s2hStream 0 (2^32)`. -/
def s2hStream (lo n : Nat) : List (BitVec 8) :=
  (List.range' lo n).flatMap fun f => halfBytes (s2h (BitVec.ofNat 32 f))

end Sys2Proof.Machine
end

