-- ==== Sys2Proof/Tests/Slice0.lean ====
section
/-! SUPPORT. Tests. Every expected value is the spec's own: the file and section each group is taken from stands above it. -/

namespace Sys2Proof.Tests

open Sys2Proof Sys2Proof.Machine

/-- The response of the first step after reset to one request word, as the host places it. -/
def answer (w : Nat) : Option Response := shown (step (State.reset.withFetchWord 40 w))

/-- The same in a block built with `NAN_EXPAND_FORCE_QUIET = 1`. -/
def answerForced (w : Nat) : Option Response :=
  shown (step ({ State.reset with cfg := { canonNan := 0x7FFF, forceQuiet := true } }.withFetchWord 40 w))

/-- The state of a program that has one response recorded and whose next request names it with `$0`. -/
def afterOne (r : Response) (op : OpCode) (sgn : SignSel) : State :=
  { State.reset with responses := [r], pending := [⟨op, sgn, .result 0⟩] }

/-! Decoding: words written out bit by bit from R60 and R62 (`op` 4 bits, `sgn` 4 bits, `a` 32 bits) -/

theorem test_decode_h2s : decode 0b0000_1010_1100000000000000_0011110000000001#40 = .h2s 0xA#4 0xC0003C01#32 := by decide

theorem test_decode_s2h : decode 0b0001_1010_1100000000000000_0011110000000001#40 = .s2h 0xA#4 0xC0003C01#32 := by decide

theorem test_decode_frombits : decode 0b0010_1010_1100000000000000_0011110000000001#40 = .frombits 0xA#4 0xC0003C01#32 := by decide

theorem test_decode_isnan : decode 0b0011_1010_1100000000000000_0011110000000001#40 = .isnan 0xA#4 0xC0003C01#32 := by decide

theorem test_decode_isinf : decode 0b0100_1010_1100000000000000_0011110000000001#40 = .isinf 0xA#4 0xC0003C01#32 := by decide

theorem test_decode_isfinite : decode 0b0101_1010_1100000000000000_0011110000000001#40 = .isfinite 0xA#4 0xC0003C01#32 := by decide

theorem test_decode_isnormal : decode 0b0110_1010_1100000000000000_0011110000000001#40 = .isnormal 0xA#4 0xC0003C01#32 := by decide

theorem test_decode_signbit : decode 0b0111_1010_1100000000000000_0011110000000001#40 = .signbit 0xA#4 0xC0003C01#32 := by decide

theorem test_decode_classify : decode 0b1000_1010_1100000000000000_0011110000000001#40 = .classify 0xA#4 0xC0003C01#32 := by decide

theorem test_decode_nan : decode 0b1001_1010_1100000000000000_0011110000000001#40 = .nan 0xA#4 0xC0003C01#32 := by decide

theorem test_decode_inf : decode 0b1010_1010_1100000000000000_0011110000000001#40 = .inf 0xA#4 0xC0003C01#32 := by decide

theorem test_decode_reservedB : decode 0b1011_1010_1100000000000000_0011110000000001#40 = .reservedB 0xA#4 0xC0003C01#32 := by decide

theorem test_decode_reservedC : decode 0b1100_1010_1100000000000000_0011110000000001#40 = .reservedC 0xA#4 0xC0003C01#32 := by decide

theorem test_decode_reservedD : decode 0b1101_1010_1100000000000000_0011110000000001#40 = .reservedD 0xA#4 0xC0003C01#32 := by decide

theorem test_decode_reservedE : decode 0b1110_1010_1100000000000000_0011110000000001#40 = .reservedE 0xA#4 0xC0003C01#32 := by decide

theorem test_decode_reservedF : decode 0b1111_1010_1100000000000000_0011110000000001#40 = .reservedF 0xA#4 0xC0003C01#32 := by decide

/-- `30_encoding.md` R70: `ISINF 0xFC00, -1` is `0x4F0000FC00`. -/
theorem test_decodeTableWord_row : decodeTableWord 40 0x4F0000FC00 = some (.isinf 0xF 0x0000FC00) := by decide

/-- R68: there is one request length. -/
theorem test_decodeTableWord_too_long : decodeBits 41 0 = .error (.wrongLength 41) := by rfl

/-- `30_encoding.md` R70. -/
theorem test_encode_s2h : encode (.s2h 0x0 0x3F800000) = 0x103F800000 := by decide

/-- R62: the 16 rows differ in `REQ[39:36]`, the only bits their mask keeps. -/
theorem test_no_two_rows_overlap : (List.range 16).Pairwise (fun i j => BitVec.ofNat 4 i ≠ BitVec.ofNat 4 j) := by decide

/-! Well-formedness: an ill-formed term for each check, refused, and a well-formed one, accepted -/

/-- R9: the significand field must not be zero. -/
theorem test_config_refuses_infinity : Config.legal { canonNan := 0x7C00, forceQuiet := false } = false := by decide

/-- R9: the exponent field must be all ones. -/
theorem test_config_refuses_finite : Config.legal { canonNan := 0x3FFF, forceQuiet := false } = false := by decide

theorem test_config_accepts_default : Config.default.legal = true := by decide

/-- R70, `95_test_vectors.md` 2.1. -/
theorem test_canonical_refuses_upper_half : Instr.canonical (.h2s 0x0 0xDEAD3C00) = false := by decide

theorem test_canonical_refuses_sgn : Instr.canonical (.s2h 0x1 0x3F800000) = false := by decide

theorem test_canonical_refuses_nan_operand : Instr.canonical (.nan 0x0 0x00000001) = false := by decide

theorem test_canonical_refuses_inf_operand : Instr.canonical (.inf 0x8 0xDEADBEEF) = false := by decide

theorem test_canonical_accepts : Instr.canonical (.isinf 0xF 0x0000FC00) = true := by decide

/-- R213. -/
theorem test_program_refuses_reserved_code : Program.wellFormed [⟨0xB, 0x0, .lit 0x3C00⟩] = false := by decide

/-- R70: `$i` names a response of an earlier request. -/
theorem test_program_refuses_forward_result : Program.wellFormed [⟨0x0, 0x0, .lit 0x3C00⟩, ⟨0x1, 0x0, .result 1⟩] = false := by decide

/-- The first requests of `95_test_vectors.md` P1. -/
theorem test_program_accepts : Program.wellFormed [⟨0x0, 0x0, .lit 0x3555⟩, ⟨0x1, 0x0, .result 0⟩, ⟨0x8, 0x0, .result 1⟩] = true := by decide

/-! H2S: `40_half_to_single.md` R114 and `95_test_vectors.md` 2.1 -/

theorem test_h2s_subnormal : answer 0x0000000155 = some ⟨0#1, 0x37AA8000#32⟩ := by decide

theorem test_h2s_ignores_upper_and_sgn : answer 0x0FDEAD3C00 = some ⟨0#1, 0x3F800000#32⟩ := by decide

theorem test_h2s_signalling_nan : answer 0x000000FC01 = some ⟨0#1, 0xFF802000#32⟩ ∧ answerForced 0x000000FC01 = some ⟨0#1, 0xFFC02000#32⟩ := by decide

/-- R41: little-endian, in increasing order; `H2S(0x3C00)` and `H2S(0x3C01)` of `95_test_vectors.md` 2.1. -/
theorem test_h2s_first_bytes : h2sStream false 0x3C00 2 = [0x00, 0x00, 0x80, 0x3F, 0x00, 0x20, 0x80, 0x3F] := by decide

/-! S2H: `41_single_to_half.md` R135 and `95_test_vectors.md` 2.2 -/

theorem test_s2h_overflow_by_carry : answer 0x10C77FF000 = some ⟨0#1, 0x0000FC00#32⟩ := by decide

theorem test_s2h_tie_at_the_bottom : answer 0x1033C00000 = some ⟨0#1, 0x00000002#32⟩ := by decide

theorem test_s2h_nan_payload : s2h 0x7FA00000 = 0x7F00 ∧ s2h 0x7F800001 = 0x7E00 := by decide

/-- R41: `S2H(0x3F801001) = 0x3C01`, low byte first. -/
theorem test_s2h_bytes : s2hStream 0x3F801001 1 = [0x01, 0x3C] := by decide

/-! Classifier: `42_classifier.md` R150 to R157 and `95_test_vectors.md` 2.3 -/

theorem test_isnan_signalling : answer 0x3000007C01 = some ⟨0#1, 0x00000001#32⟩ := by decide

theorem test_isnan_infinity : answer 0x3000007C00 = some ⟨0#1, 0x00000000#32⟩ := by decide

theorem test_isinf_negative_selector : answer 0x4F0000FC00 = some ⟨0#1, 0x00000001#32⟩ := by decide

theorem test_isinf_most_negative_selector : answer 0x4800007C00 = some ⟨0#1, 0x00000000#32⟩ := by decide

theorem test_isfinite_largest : answer 0x5000007BFF = some ⟨0#1, 0x00000001#32⟩ := by decide

theorem test_isfinite_infinity : answer 0x5000007C00 = some ⟨0#1, 0x00000000#32⟩ := by decide

theorem test_isnormal_smallest : answer 0x6000000400 = some ⟨0#1, 0x00000001#32⟩ := by decide

theorem test_isnormal_largest_subnormal : answer 0x60000003FF = some ⟨0#1, 0x00000000#32⟩ := by decide

theorem test_signbit_negative_zero : answer 0x7000008000 = some ⟨0#1, 0x00000001#32⟩ := by decide

theorem test_signbit_positive_nan : answer 0x7000007FFF = some ⟨0#1, 0x00000000#32⟩ := by decide

theorem test_class_negative_subnormal : answer 0x8000008001 = some ⟨0#1, 0x00000054#32⟩ := by decide

theorem test_class_negative_infinity : answer 0x800000FC00 = some ⟨0#1, 0x00000012#32⟩ := by decide

/-! Constructors: `43_constructors.md` and `95_test_vectors.md` 2.4 -/

theorem test_frombits_clears_upper_half : answer 0x20DEAD7C01 = some ⟨0#1, 0x00007C01#32⟩ := by decide

theorem test_frombits_all_ones : answer 0x200000FFFF = some ⟨0#1, 0x0000FFFF#32⟩ := by decide

theorem test_nan_ignores_fields : answer 0x9FFFFFFFFF = some ⟨0#1, 0x00007FFF#32⟩ := by decide

theorem test_inf_zero_is_positive : answer 0xA000000000 = some ⟨0#1, 0x00007C00#32⟩ := by decide

theorem test_inf_most_negative_selector : answer 0xA8DEADBEEF = some ⟨0#1, 0x0000FC00#32⟩ := by decide

/-! Reserved codes: `95_test_vectors.md` 2.5 and R211 -/

theorem test_reserved_b : answer 0xB000003C00 = some ⟨1#1, 0x00000000#32⟩ := by decide

theorem test_reserved_c : answer 0xC312345678 = some ⟨1#1, 0x00000000#32⟩ := by decide

theorem test_reserved_d : answer 0xD000007FFF = some ⟨1#1, 0x00000000#32⟩ := by decide

theorem test_reserved_e : answer 0xE8FFFFFFFF = some ⟨1#1, 0x00000000#32⟩ := by decide

theorem test_reserved_f : answer 0xFFFFFFFFFF = some ⟨1#1, 0x00000000#32⟩ := by decide

/-- `95_test_vectors.md` 2.5: `RSP = 0x100000000`. -/
theorem test_response_word_illegal : Response.word ⟨1#1, 0#32⟩ = 0x100000000 := by decide

/-- R213 and `95_test_vectors.md` P5: the fault `IllegalOp(0xB)`. -/
theorem test_reserved_marks_the_run : (State.reset.raiseIllegalOp 0xB).runFault = some (.illegalOp 0xB) := by decide

/-- R211 and `95_test_vectors.md` P5: response 3 is unaffected by the illegal request before it. -/
theorem test_legal_after_illegal : shown (exec (.h2s 0x0 0x3C00) (State.reset.raiseIllegalOp 0xB)) = some ⟨0#1, 0x3F800000#32⟩ := by decide

/-! Programs: `$i` (R70, R213) and one step of a program -/

/-- `95_test_vectors.md` P1: `S2H $0`. -/
theorem test_result_operand : shown (step (afterOne ⟨0#1, 0x3EAAA000#32⟩ 0x1 0x0)) = some ⟨0#1, 0x00003555#32⟩ := by decide

theorem test_result_of_illegal_faults : step (afterOne ⟨1#1, 0#32⟩ 0x1 0x0) = .fault (.dependsOnIllegalOp 0) := by rfl

theorem test_result_missing_faults : step { State.reset with pending := [⟨0x1, 0x0, .result 0⟩] } = .fault (.noSuchResponse 0) := by rfl

/-! Assembly: the examples of R70 and R71 -/

theorem test_assemble_isinf : assembleText ['I', 'S', 'I', 'N', 'F', ' ', '0', 'x', 'F', 'C', '0', '0', ',', ' ', '-', '1'] = some ⟨0x4, 0xF, .lit 0x0000FC00⟩ := by decide

theorem test_assemble_inf : assembleText ['I', 'N', 'F', ' ', '-', '1'] = some ⟨0xA, 0xF, .lit 0⟩ := by decide

theorem test_assemble_raw : assembleText ['.', 'r', 'e', 'q', ' ', '0', 'x', 'B', '0', '0', '0', '0', '0', '3', 'C', '0', '0'] = some ⟨0xB, 0x0, .lit 0x00003C00⟩ := by decide

/-- The digits of a hexadecimal literal (R12), read in either case (log entry 10). -/
theorem test_hexValue : ['0', '9', 'A', 'F', 'b', 'e', 'g', '@'].map hexValue =
    [some 0, some 9, some 10, some 15, some 11, some 14, none, none] := by decide

/-- R12: `_` separates digit groups; a literal without a digit, and a zero with a sign, are as log entry 10 says. -/
theorem test_number_forms : parseOperand ['0', 'x', 'F', 'C', '_', '0', '0'] = some (.hex 0xFC00) ∧
    parseOperand ['0', 'x', '_'] = none ∧ parseOperand ['0', 'x'] = none ∧ parseSign ['-', '0'] = some 0 := by decide

theorem test_assemble_result : assembleText ['S', '2', 'H', ' ', '$', '0'] = some ⟨0x1, 0x0, .result 0⟩ := by decide

theorem test_assemble_pseudo : assemble (.isninf (.hex 0xFC00)) = assemble (.op .isinf (some (.hex 0xFC00)) (some (-1))) := by decide

theorem test_assemble_refuses_wide_half : assemble (.op .h2s (some (.hex 0x13C00)) none) = none := by decide

theorem test_assemble_refuses_sign : assemble (.op .h2s (some (.hex 0x3C00)) (some 0)) = none := by decide

theorem test_assemble_refuses_large_sign : assemble (.op .inf none (some 8)) = none := by decide

theorem test_disassemble_text : disassemblyText 0x0FDEAD3C00 = ['H', '2', 'S', ' ', '0', 'x', '3', 'C', '0', '0', ' ', ';', ' ', 'i', 'g', 'n', 'o', 'r', 'e', 'd', ' ', 'b', 'i', 't', 's', ' ', 's', 'e', 't'] := by decide

/-! Values: `45_laws.md` R192, `95_test_vectors.md` 1.5 (R15) -/

theorem test_value_65504 : halfValue 0x7BFF#16 = .finite false 65504 ∧ singleValue 0x477FE000#32 = .finite false 65504 := by
  have e : halfExp 0x7BFF#16 = 30#5 := by decide
  have m : halfSig 0x7BFF#16 = 0x3FF#10 := by decide
  have s : halfSign 0x7BFF#16 = 0#1 := by decide
  have e' : singleExp 0x477FE000#32 = 142#8 := by decide
  have m' : singleSig 0x477FE000#32 = 0x7FE000#23 := by decide
  have s' : singleSign 0x477FE000#32 = 0#1 := by decide
  constructor <;> simp [halfValue, singleValue, halfMagnitude, singleMagnitude, e, m, s, e', m', s'] <;> norm_num

/-! Witnesses: for every statement that has hypotheses, data that meet all of them together, at the boundaries of their ranges -/

theorem witness_StepRunsDecodedRequest :
    (afterOne ⟨0#1, 0x3EAAA000#32⟩ 0x1 0x0).pending = [⟨0x1, 0x0, .result 0⟩] ∧
    resolve (afterOne ⟨0#1, 0x3EAAA000#32⟩ 0x1 0x0).responses (.result 0) = .ok 0x3EAAA000#32 := ⟨rfl, rfl⟩

theorem witness_StepIsExec :
    (State.reset.withFetchWord 40 0xB000003C00).pending = [⟨0xB, 0x0, .lit 0x00003C00#32⟩] ∧
    resolve (State.reset.withFetchWord 40 0xB000003C00).responses (.lit 0x00003C00#32) = .ok 0x00003C00#32 := ⟨by decide, rfl⟩

theorem witness_StepWithoutRequestIdles :
    State.reset.pending = [] := rfl

theorem witness_ResultOperands_legal :
    (afterOne ⟨0#1, 0x3EAAA000#32⟩ 0x1 0x0).pending = [⟨0x1, 0x0, .result 0⟩] ∧ (afterOne ⟨0#1, 0x3EAAA000#32⟩ 0x1 0x0).responses[0]? = some ⟨0#1, 0x3EAAA000#32⟩ := ⟨rfl, rfl⟩

theorem witness_ResultOperands_illegal :
    (afterOne ⟨1#1, 0#32⟩ 0x1 0x0).pending = [⟨0x1, 0x0, .result 0⟩] ∧ (afterOne ⟨1#1, 0#32⟩ 0x1 0x0).responses[0]? = some ⟨1#1, 0#32⟩ := ⟨rfl, rfl⟩

theorem witness_ResultOperands_missing :
    (State.reset.loadProgram [⟨0x1, 0x0, .result 0⟩]).pending = [⟨0x1, 0x0, .result 0⟩] ∧
    (State.reset.loadProgram [⟨0x1, 0x0, .result 0⟩]).responses.length ≤ 0 := ⟨rfl, by decide⟩

theorem witness_WellFormedProgramCompletes :
    Program.wellFormed [⟨0xA, 0xF, .lit 0⟩, ⟨0x0, 0x0, .result 0⟩] = true := by decide

theorem witness_PortsAgreeKept :
    (State.reset.withFetchWord 40 0x4F0000FC00).PortsAgree ∧ ∃ t, step (State.reset.withFetchWord 40 0x4F0000FC00) = .next t := ⟨by unfold State.PortsAgree; decide, _, rfl⟩

theorem witness_MarkKept :
    (State.reset.withFetchWord 40 0xB000003C00).MarkAgrees ∧ (State.reset.withFetchWord 40 0xB000003C00).MarkReserved ∧ ∃ t, step (State.reset.withFetchWord 40 0xB000003C00) = .next t := ⟨by unfold State.MarkAgrees; decide, (fun _ h => by cases h), _, rfl⟩

theorem witness_MarkKept_marked :
    (State.reset.raiseIllegalOp 0xB).MarkAgrees ∧ (State.reset.raiseIllegalOp 0xB).MarkReserved ∧
    ∃ t, step (State.reset.raiseIllegalOp 0xB) = .next t := ⟨by unfold State.MarkAgrees; decide, (fun _ h => by cases h; decide), _, rfl⟩

theorem witness_IllegalIsZeroKept :
    (State.reset.withFetchWord 40 0xB000003C00).IllegalIsZero ∧ ∃ t, step (State.reset.withFetchWord 40 0xB000003C00) = .next t := ⟨by unfold State.IllegalIsZero; decide, _, rfl⟩

theorem witness_StepKeepsParameters :
    ∃ t, step (State.reset.withFetchWord 40 0xB000003C00) = .next t := ⟨_, rfl⟩

theorem witness_OnlyReservedCodesAreIllegal :
    (Instr.inf 0xF 0).op.toNat < 0xB := by decide

theorem witness_ResponseIgnoresHistory :
    (State.reset.raiseIllegalOp 0xB).cfg = State.reset.cfg ∧ ∃ t, exec (.reservedB 0 0) State.reset = .next t := ⟨rfl, _, rfl⟩

theorem witness_IgnoredFieldsAreIgnored :
    (0xDEAD3C00#32).extractLsb' 0 16 = (0x00003C00#32).extractLsb' 0 16 ∧ (0xF#4).getLsbD 3 = (0x8#4).getLsbD 3 := by decide

theorem witness_ResultsAreZeroExtended :
    (∃ t, exec (.frombits 0 0xFFFFFFFF) State.reset = .next t) ∧ (Instr.frombits 0 0xFFFFFFFF).op ∈ [0x1#4, 0x2#4, 0x9#4, 0xA#4] ∧
    (∃ t, exec (.signbit 0 0x8000) State.reset = .next t) ∧ (Instr.signbit 0 0x8000).op ∈ [0x3#4, 0x4#4, 0x5#4, 0x6#4, 0x7#4] ∧
    (∃ t, exec (.classify 0 0x8000) State.reset = .next t) ∧ (Instr.classify 0 0x8000).op = 0x8#4 ∧
    (∃ t, exec (.reservedB 0 0) State.reset = .next t) ∧ 0xB ≤ (Instr.reservedB 0 0).op.toNat := ⟨⟨_, rfl⟩, by decide, ⟨_, rfl⟩, by decide, ⟨_, rfl⟩, by decide, ⟨_, rfl⟩, by decide⟩

theorem witness_H2sInfinity :
    (0x0000FC00#32).extractLsb' 10 5 = 31#5 ∧ (0x0000FC00#32).extractLsb' 0 10 = 0#10 := by decide

theorem witness_H2sZero :
    (0x00008000#32).extractLsb' 10 5 = 0#5 ∧ (0x00008000#32).extractLsb' 0 10 = 0#10 := by decide

theorem witness_H2sNormal :
    (0x00000400#32).extractLsb' 10 5 ≠ 0#5 ∧ (0x00000400#32).extractLsb' 10 5 ≠ 31#5 ∧ (0x00007BFF#32).extractLsb' 10 5 ≠ 0#5 ∧ (0x00007BFF#32).extractLsb' 10 5 ≠ 31#5 := by decide

theorem witness_H2sNaN :
    (0x00007C01#32).extractLsb' 10 5 = 31#5 ∧ (0x00007C01#32).extractLsb' 0 10 ≠ 0#10 ∧ State.reset.cfg.forceQuiet = false ∧
    (State.cfg { State.reset with cfg := { canonNan := 0x7FFF, forceQuiet := true } }).forceQuiet = true := by decide

theorem witness_H2sSubnormal :
    (0x000003FF#32).extractLsb' 10 5 = 0#5 ∧ 2 ^ 9 ≤ ((0x000003FF#32).extractLsb' 0 10).toNat ∧ ((0x000003FF#32).extractLsb' 0 10).toNat < 2 ^ (9 + 1) ∧
    (0x00000001#32).extractLsb' 10 5 = 0#5 ∧ 2 ^ 0 ≤ ((0x00000001#32).extractLsb' 0 10).toNat ∧ ((0x00000001#32).extractLsb' 0 10).toNat < 2 ^ (0 + 1) := by decide

theorem witness_H2sLoopForm :
    (0x001#10) ≠ 0#10 ∧ 9 < 10 - msb 0x001#10 ∧ 10 - msb 0x001#10 ≤ 10 ∧ 0 < 10 - msb 0x3FF#10 ∧ 10 - msb 0x3FF#10 ≤ 1 := by decide

theorem witness_H2sPreservesValue :
    halfValue 0x7C01 = .nan ∧ halfValue 0xFC00 = .infinity true ∧ halfValue 0xFC00 ≠ .nan := by
  have h : halfValue 0xFC00 = .infinity true := by decide
  exact ⟨by decide, h, by rw [h]; decide⟩

theorem witness_S2hInfinityAndNaN :
    ((0x7F800000#32).extractLsb' 23 8) = 255#8 ∧ (0x7F800000#32).extractLsb' 0 23 = 0#23 ∧ ((0x7F800001#32).extractLsb' 23 8) = 255#8 ∧ (0x7F800001#32).extractLsb' 0 23 ≠ 0#23 := by decide

theorem witness_S2hOverflow :
    143 ≤ ((0x47800000#32).extractLsb' 23 8).toNat ∧ ((0x47800000#32).extractLsb' 23 8).toNat ≤ 254 ∧ 143 ≤ ((0xFF7FFFFF#32).extractLsb' 23 8).toNat ∧ ((0xFF7FFFFF#32).extractLsb' 23 8).toNat ≤ 254 := by decide

theorem witness_S2hFlush :
    ((0x32FFFFFF#32).extractLsb' 23 8).toNat ≤ 101 ∧ ((0x00000000#32).extractLsb' 23 8).toNat ≤ 101 ∧ 25 ≤ 25 := by decide

theorem witness_S2hSubnormal :
    102 ≤ ((0x33000000#32).extractLsb' 23 8).toNat ∧ ((0x33000000#32).extractLsb' 23 8).toNat ≤ 112 ∧ 102 ≤ ((0x387FE000#32).extractLsb' 23 8).toNat ∧ ((0x387FE000#32).extractLsb' 23 8).toNat ≤ 112 ∧
    126 - ((0x33800000#32).extractLsb' 23 8).toNat ≤ 23 := by decide

theorem witness_S2hNormal :
    113 ≤ ((0x38800000#32).extractLsb' 23 8).toNat ∧ ((0x38800000#32).extractLsb' 23 8).toNat ≤ 142 ∧ 113 ≤ ((0x477FF000#32).extractLsb' 23 8).toNat ∧ ((0x477FF000#32).extractLsb' 23 8).toNat ≤ 142 := by decide

theorem witness_RoundIncrementIsNearestEven :
    roundIncrement (firstDiscarded 0b11#2 1) (lowerDiscarded 0b11#2 1) ((0b11#2 >>> 1).getLsbD 0) = true ∧ 1 ≤ 1 := by decide

theorem witness_RoundTripThroughSingle :
    isNaN 0x7BFF = false ∧ (isNaN 0x7E00 = true ∧ (0x7E00#16).getLsbD 9 = true) ∧
    (isNaN 0x7DFF = true ∧ (0x7DFF#16).getLsbD 9 = false) ∧ (isNaN 0xFC01 = true ∧ (0xFC01#16).getLsbD 9 = false) := by decide

theorem witness_S2hIsNearestEven_infinity :
    singleValue 0xFF800000#32 = .infinity true := by decide

theorem witness_S2hIsNearestEven_large :
    ∃ m, singleValue 0x477FF000#32 = .finite false m ∧ 65520 ≤ m := by
  have e : singleExp 0x477FF000#32 = 142#8 := by decide
  have m : singleSig 0x477FF000#32 = 0x7FF000#23 := by decide
  have s : singleSign 0x477FF000#32 = 0#1 := by decide
  refine ⟨65520, ?_, le_refl _⟩
  simp [singleValue, singleMagnitude, e, m, s]; norm_num

theorem witness_S2hIsNearestEven_small :
    ∃ m u v v', singleValue 0x80000000#32 = .finite true m ∧ m < 65520 ∧ m ≤ 2 ^ (-25 : ℤ) ∧
    (halfValue 0x8000#16).number = some u ∧ (singleValue 0x80000000#32).number = some v ∧ (halfValue (s2h 0x80000000#32)).number = some v' := by
  have e : singleExp 0x80000000#32 = 0#8 := by decide
  have m : singleSig 0x80000000#32 = 0#23 := by decide
  have s : singleSign 0x80000000#32 = 1#1 := by decide
  have r : s2h 0x80000000#32 = 0x8000#16 := by decide
  have e' : halfExp 0x8000#16 = 0#5 := by decide
  have m' : halfSig 0x8000#16 = 0#10 := by decide
  have s' : halfSign 0x8000#16 = 1#1 := by decide
  refine ⟨0, 0, 0, 0, ?_, by norm_num, by positivity, ?_, ?_, ?_⟩ <;>
    simp [singleValue, singleMagnitude, halfValue, halfMagnitude, Denoted.number, e, m, s, r, e', m', s']

theorem witness_S2hIsMonotone :
    (0xBF800000#32).getLsbD 31 = (0xFF800000#32).getLsbD 31 ∧ (0xBF800000#32).toNat % 2 ^ 31 ≤ (0xFF800000#32).toNat % 2 ^ 31 ∧
    (0xFF800000#32).toNat % 2 ^ 31 ≤ 0x7F800000 := by decide

theorem witness_S2hThresholds :
    (s2h 0xB3000000).toNat % 2 ^ 15 = 0x0000 ∧ (s2h 0x33000001).toNat % 2 ^ 15 = 0x0001 ∧ (s2h 0x33BFFFFF).toNat % 2 ^ 15 = 0x0001 ∧
    (s2h 0x33C00000).toNat % 2 ^ 15 = 0x0002 ∧ (s2h 0x34200000).toNat % 2 ^ 15 = 0x0002 ∧ (s2h 0x34200001).toNat % 2 ^ 15 = 0x0003 ∧
    (s2h 0x387FA001).toNat % 2 ^ 15 = 0x03FF ∧ (s2h 0x387FDFFF).toNat % 2 ^ 15 = 0x03FF ∧ (s2h 0x387FE000).toNat % 2 ^ 15 = 0x0400 ∧
    (s2h 0x38801000).toNat % 2 ^ 15 = 0x0400 ∧ (s2h 0x3F7FF000).toNat % 2 ^ 15 = 0x3C00 ∧ (s2h 0x3F801000).toNat % 2 ^ 15 = 0x3C00 ∧
    (s2h 0x477FD001).toNat % 2 ^ 15 = 0x7BFF ∧ (s2h 0x477FEFFF).toNat % 2 ^ 15 = 0x7BFF ∧ (s2h 0x477FF000).toNat % 2 ^ 15 = 0x7C00 ∧
    (s2h 0x7F800000).toNat % 2 ^ 15 = 0x7C00 := by decide

theorem witness_S2hClasses :
    isNaN (s2h 0x7F800001) = true ∧ isNaN (s2h 0x7F800000) = false ∧ isInf (s2h 0x477FF000) 0#4 = true ∧
    isInf (s2h 0x477FEFFF) 0#4 = false ∧ isZero (s2h 0x33000000) = true ∧ isZero (s2h 0x33000001) = false := by decide

theorem witness_IsinfAnswers :
    0 < (0x1#4).toInt ∧ 0 < (0x7#4).toInt ∧ (0x8#4).toInt < 0 ∧ (0xF#4).toInt < 0 ∧ (0x0#4).toInt = 0 := by decide

theorem witness_NanAnswers :
    State.reset.cfg = Config.default ∧ State.reset.cfg.legal = true ∧
    (State.cfg { State.reset with cfg := { canonNan := 0xFC01, forceQuiet := false } }).legal = true := by decide

theorem witness_CanonicalNanIsNaN :
    Config.legal { canonNan := 0x7C01, forceQuiet := false } = true ∧ Config.legal { canonNan := 0xFFFF, forceQuiet := true } = true := by decide

theorem witness_ConstructorsMeetPredicates :
    (0 < (0x7#4).toInt ∧ (0x8#4).toInt < 0) ∧ ((0xF#4).toInt < 0 ∧ 0 < (0x1#4).toInt) := by decide

theorem witness_ConstantsConvert :
    s2h 0x7FFFE000 = 0x7FFF ∧ s2h 0x7FFFDFFF ≠ 0x7FFF ∧ s2h 0x7FFFFFFF = 0x7FFF ∧ s2h 0x7FBFE000 = 0x7FFF ∧
    s2h 0x7FBFDFFF ≠ 0x7FFF ∧ s2h 0x7FBFFFFF = 0x7FFF ∧ s2h 0x7FC00000 ≠ 0x7FFF := by decide

theorem witness_DisassembleThenAssemble :
    (disassemble 0x4F0000FC00).2 = false ∧ (disassemble 0x4F1000FC00).2 = true := by decide

theorem witness_H2sCollisions :
    h2s true 0x7C01 = h2s true 0x7E01 ∧ h2s false 0x7C01 ≠ h2s false 0x7E01 := by decide

end Sys2Proof.Tests
end

section
/-! PROOFS. The family of `40_half_to_single.md`: H2S on each class of half (R103 to R107) and the loop form (R108). -/

namespace Sys2Proof.Machine

/-! The instruction, and the fields of its operand -/

theorem answers_h2s (sgn : SignSel) (a : Bus) (s : State) :
    Answers (.h2s sgn a) s (h2s s.cfg.forceQuiet (halfOperand a)) := rfl

theorem halfSign_halfOperand (a : Bus) : halfSign (halfOperand a) = a.extractLsb' 15 1 :=
  BitVec.extractLsb'_extractLsb'_of_le (by decide)

theorem halfExp_halfOperand (a : Bus) : halfExp (halfOperand a) = a.extractLsb' 10 5 :=
  BitVec.extractLsb'_extractLsb'_of_le (by decide)

theorem halfSig_halfOperand (a : Bus) : halfSig (halfOperand a) = a.extractLsb' 0 10 :=
  BitVec.extractLsb'_extractLsb'_of_le (by decide)

/-! One equation per class of half (R113) -/

theorem h2s_of_infinity {h : Half} (q : Bool) (he : halfExp h = 31#5) (hm : halfSig h = 0#10) :
    h2s q h = h2sInfinity (halfSign h) := by
  simp [h2s, he, hm]

theorem h2s_of_nan {h : Half} (q : Bool) (he : halfExp h = 31#5) (hm : halfSig h ≠ 0#10) :
    h2s q h = h2sNaN q (halfSign h) (halfSig h) := by
  simp [h2s, he, hm]

theorem h2s_of_zero {h : Half} (q : Bool) (he : halfExp h = 0#5) (hm : halfSig h = 0#10) :
    h2s q h = h2sZero (halfSign h) := by
  simp [h2s, he, hm]

theorem h2s_of_subnormal {h : Half} (q : Bool) (he : halfExp h = 0#5) (hm : halfSig h ≠ 0#10) :
    h2s q h = h2sSubnormal (halfSign h) (halfSig h) := by
  simp [h2s, he, hm]

theorem h2s_of_normal {h : Half} (q : Bool) (h0 : halfExp h ≠ 0#5) (h31 : halfExp h ≠ 31#5) :
    h2s q h = h2sNormal (halfSign h) (halfExp h) (halfSig h) := by
  simp [h2s, h0, h31]

/-! The packed forms as plain concatenations -/

/-- A half significand in the top ten bits of the fraction (R105, R106). -/
theorem packSingle_append (s : BitVec 1) (e : BitVec 8) (m : BitVec 10) :
    packSingle s e (m ++ 0#13) = s ++ e ++ m ++ 0#13 :=
  BitVec.append_assoc'

theorem h2sZero_eq_append (s : BitVec 1) : h2sZero s = s ++ 0#31 := by
  have assoc : s ++ 0#8 ++ 0#23 = s ++ (0#8 ++ 0#23) := BitVec.append_assoc
  rw [h2sZero, packSingle, assoc, BitVec.zero_append_zero]

/-! The most significant bit (`00_scope.md` R12) -/

theorem msb_eq_of_bounds {w k : Nat} {m : BitVec w} (hlo : 2 ^ k ≤ m.toNat) (hhi : m.toNat < 2 ^ (k + 1)) :
    msb m = k :=
  (Nat.log2_eq_iff (Nat.ne_of_gt (Nat.lt_of_lt_of_le (Nat.two_pow_pos k) hlo))).mpr ⟨hlo, hhi⟩

theorem msb_lt_width {w : Nat} {m : BitVec w} (hm : m ≠ 0#w) : msb m < w :=
  (Nat.pow_lt_pow_iff_right Nat.one_lt_two).mp (Nat.lt_of_le_of_lt (msb_spec m hm).1 m.isLt)

/-! The loop of R108 -/

theorem getLsbD_23_iff (c : BitVec 24) : c.getLsbD 23 = true ↔ 2 ^ 23 ≤ c.toNat := by
  rw [← BitVec.msb_eq_getLsbD_last c, BitVec.msb_eq_decide, decide_eq_true_iff]

theorem getLsbD_23_eq_false_iff (c : BitVec 24) : c.getLsbD 23 = false ↔ c.toNat < 2 ^ 23 := by
  rw [← Bool.not_eq_true, getLsbD_23_iff, Nat.not_le]

/-- Once bit 23 is set the loop has stopped, and further turns change nothing. -/
theorem normalizeLoop_of_normalised {c : BitVec 24} (hc : c.getLsbD 23 = true) (n w : Nat) :
    normalizeLoop n c w = (c, w) := by
  cases n with
  | zero => rfl
  | succ n => simp only [normalizeLoop, hc, if_true]

/-- While no 1 has been shifted out, every turn shifts: `n` turns shift by `n`. -/
theorem normalizeLoop_of_lt (n w : Nat) (c : BitVec 24) (hc : c.toNat * 2 ^ n < 2 ^ 24) :
    normalizeLoop n c w = (BitVec.ofNat 24 (c.toNat * 2 ^ n), w - n) := by
  induction n generalizing c w with
  | zero => simp [normalizeLoop]
  | succ n ih =>
    rw [Nat.pow_succ, ← Nat.mul_assoc] at hc
    have hle : c.toNat ≤ c.toNat * 2 ^ n := Nat.le_mul_of_pos_right _ (Nat.two_pow_pos n)
    have hlt : c.toNat < 2 ^ 23 := by omega
    have hshift : (c <<< 1).toNat = c.toNat * 2 := by
      rw [BitVec.toNat_shiftLeft, Nat.shiftLeft_eq, pow_one]; omega
    have hc' : (c <<< 1).toNat * 2 ^ n < 2 ^ 24 := by rwa [hshift, Nat.mul_right_comm]
    rw [normalizeLoop, (getLsbD_23_eq_false_iff c).mpr hlt, if_neg Bool.false_ne_true, ih _ _ hc', hshift,
      Nat.mul_assoc, ← Nat.pow_succ', Nat.sub_sub, Nat.add_comm 1 n]

theorem normalizeLoop_add (m n w : Nat) (c : BitVec 24) :
    normalizeLoop (m + n) c w = normalizeLoop n (normalizeLoop m c w).1 (normalizeLoop m c w).2 := by
  induction m generalizing c w with
  | zero => rw [Nat.zero_add, normalizeLoop]
  | succ m ih =>
    rw [Nat.succ_add, normalizeLoop, normalizeLoop]
    split
    · next hc => rw [normalizeLoop_of_normalised hc]
    · next => exact ih _ _

/-! The loop from its start values `c = hm << 13`, `w = 113` -/

theorem loopStart_toNat (hm : BitVec 10) : ((hm.zeroExtend 24) <<< 13).toNat = hm.toNat * 2 ^ 13 := by
  have := hm.isLt
  rw [BitVec.toNat_shiftLeft, Nat.shiftLeft_eq, BitVec.toNat_setWidth]; omega

/-- Shifted left by `23 - msb(hm)`, a subnormal significand has its leading 1 at bit 23 (R107). -/
theorem normalised_bounds {hm : BitVec 10} (h : hm ≠ 0#10) :
    2 ^ 23 ≤ hm.toNat * 2 ^ (23 - msb hm) ∧ hm.toNat * 2 ^ (23 - msb hm) < 2 ^ 24 := by
  obtain ⟨hlo, hhi⟩ := msb_spec hm h
  have hk := msb_lt_width h
  have e23 : 2 ^ msb hm * 2 ^ (23 - msb hm) = 2 ^ 23 := by rw [← Nat.pow_add]; congr 1; omega
  have e24 : 2 ^ (msb hm + 1) * 2 ^ (23 - msb hm) = 2 ^ 24 := by rw [← Nat.pow_add]; congr 1; omega
  exact ⟨e23 ▸ Nat.mul_le_mul_right _ hlo, e24 ▸ Nat.mul_lt_mul_of_pos_right hhi (Nat.two_pow_pos _)⟩

theorem normalised_getLsbD_23 {hm : BitVec 10} (h : hm ≠ 0#10) :
    (BitVec.ofNat 24 (hm.toNat * 2 ^ (23 - msb hm))).getLsbD 23 = true := by
  obtain ⟨hlo, hhi⟩ := normalised_bounds h
  rwa [getLsbD_23_iff, BitVec.toNat_ofNat, Nat.mod_eq_of_lt hhi]

/-- `n ≤ 10 - msb(hm)` turns shift by `n`. -/
theorem normalizeLoop_start {hm : BitVec 10} (h : hm ≠ 0#10) {n : Nat} (hn : n ≤ 10 - msb hm) :
    normalizeLoop n ((hm.zeroExtend 24) <<< 13) 113 = (BitVec.ofNat 24 (hm.toNat * 2 ^ (13 + n)), 113 - n) := by
  have hk := msb_lt_width h
  have hpow : (2 : Nat) ^ (13 + n) ≤ 2 ^ (23 - msb hm) := Nat.pow_le_pow_right (by decide) (by omega)
  have hlt : hm.toNat * 2 ^ (13 + n) < 2 ^ 24 :=
    Nat.lt_of_le_of_lt (Nat.mul_le_mul_left _ hpow) (normalised_bounds h).2
  rw [Nat.pow_add, ← Nat.mul_assoc, ← loopStart_toNat] at hlt ⊢
  exact normalizeLoop_of_lt n 113 _ hlt

/-- Before turn `10 - msb(hm)` the leading 1 has not reached bit 23. -/
theorem normalizeLoop_unfinished {hm : BitVec 10} (h : hm ≠ 0#10) {n : Nat} (hn : n < 10 - msb hm) :
    (normalizeLoop n ((hm.zeroExtend 24) <<< 13) 113).1.getLsbD 23 = false := by
  have hpow : (2 : Nat) ^ (13 + n) * 2 ≤ 2 ^ (23 - msb hm) := by
    rw [← Nat.pow_succ]; exact Nat.pow_le_pow_right (by decide) (by omega)
  have hlt : hm.toNat * (2 ^ (13 + n) * 2) < 2 ^ 24 :=
    Nat.lt_of_le_of_lt (Nat.mul_le_mul_left _ hpow) (normalised_bounds h).2
  rw [← Nat.mul_assoc] at hlt
  rw [normalizeLoop_start h (Nat.le_of_lt hn), getLsbD_23_eq_false_iff, BitVec.toNat_ofNat]
  omega

/-- From turn `10 - msb(hm)` on the loop holds the normalised significand and its exponent field. -/
theorem normalizeLoop_finished {hm : BitVec 10} (h : hm ≠ 0#10) {n : Nat} (hn : 10 - msb hm ≤ n) :
    normalizeLoop n ((hm.zeroExtend 24) <<< 13) 113 =
      (BitVec.ofNat 24 (hm.toNat * 2 ^ (23 - msb hm)), 103 + msb hm) := by
  have hk := msb_lt_width h
  have hturns := normalizeLoop_start h (Nat.le_refl (10 - msb hm))
  rw [show 13 + (10 - msb hm) = 23 - msb hm by omega, show 113 - (10 - msb hm) = 103 + msb hm by omega] at hturns
  rw [show n = (10 - msb hm) + (n - (10 - msb hm)) by omega, normalizeLoop_add, hturns]
  exact normalizeLoop_of_normalised (normalised_getLsbD_23 h) _ _

theorem h2sSubnormalLoop_eq {hm : BitVec 10} (hs : BitVec 1) (h : hm ≠ 0#10) :
    h2sSubnormalLoop hs hm = h2sSubnormal hs hm := by
  rw [h2sSubnormalLoop, normalizeLoop_finished h (Nat.sub_le _ _), h2sSubnormal, Nat.shiftLeft_eq]
  rw [← BitVec.setWidth_eq_extractLsb' (by decide), BitVec.setWidth_ofNat_of_le (by decide)]

end Sys2Proof.Machine

namespace Sys2Proof.Proofs.HalfToSingle

open Sys2Proof.Machine

/-- Settles O25: `k` is `msb(hm)`, and R107 is the subnormal arm of H2S. -/
theorem h2sSubnormal : Obligations.H2sSubnormal := by
  intro s sgn a k he hlo hhi
  have hk : msb (a.extractLsb' 0 10) = k := msb_eq_of_bounds hlo hhi
  have hne : a.extractLsb' 0 10 ≠ 0#10 := fun h0 => by simp [h0] at hlo
  refine ⟨hk ▸ Nat.le_of_lt_succ (msb_lt_width hne), ?_⟩
  have hy := answers_h2s sgn a s
  rwa [h2s_of_subnormal _ ((halfExp_halfOperand a).trans he) (by rwa [halfSig_halfOperand]), halfSign_halfOperand,
    halfSig_halfOperand, Machine.h2sSubnormal, hk, Nat.shiftLeft_eq] at hy

/-- Settles O26: the loop shifts at every turn until the leading 1 is at bit 23, and then stands still (R108). -/
theorem h2sLoopForm : Obligations.H2sLoopForm := by
  intro hs hm h
  have hk := msb_lt_width h
  refine ⟨h2sSubnormalLoop_eq hs h, by omega, fun n hn => normalizeLoop_unfinished h hn, fun n hn => ?_⟩
  rw [normalizeLoop_finished h hn]
  exact ⟨normalised_getLsbD_23 h, rfl⟩

/-- Settles O21: the infinity arm of H2S (R103). -/
theorem h2sInfinity : Obligations.H2sInfinity := by
  intro s sgn a he hm
  have hy := answers_h2s sgn a s
  rwa [h2s_of_infinity _ ((halfExp_halfOperand a).trans he) ((halfSig_halfOperand a).trans hm),
    halfSign_halfOperand] at hy

/-- Settles O22: the zero arm of H2S (R104). -/
theorem h2sZero : Obligations.H2sZero := by
  intro s sgn a he hm
  have hy := answers_h2s sgn a s
  rwa [h2s_of_zero _ ((halfExp_halfOperand a).trans he) ((halfSig_halfOperand a).trans hm),
    halfSign_halfOperand, h2sZero_eq_append] at hy

/-- Settles O23: the normal arm of H2S (R105), with the range of a 5-bit exponent field that is neither 0 nor 31. -/
theorem h2sNormal : Obligations.H2sNormal := by
  intro s sgn a h0 h31
  have hpos : (a.extractLsb' 10 5).toNat ≠ 0 := fun h => h0 (BitVec.eq_of_toNat_eq h)
  have htop : (a.extractLsb' 10 5).toNat ≠ 31 := fun h => h31 (BitVec.eq_of_toNat_eq h)
  have hlt := (a.extractLsb' 10 5).isLt
  refine ⟨by omega, by omega, ?_⟩
  have hy := answers_h2s sgn a s
  rwa [h2s_of_normal _ (by rwa [halfExp_halfOperand]) (by rwa [halfExp_halfOperand]), halfSign_halfOperand,
    halfExp_halfOperand, halfSig_halfOperand, Machine.h2sNormal, packSingle_append] at hy

/-- Settles O24: the NaN arm of H2S (R106), for both values of the parameter. -/
theorem h2sNaN : Obligations.H2sNaN := by
  intro s sgn a he hm
  have hy := answers_h2s sgn a s
  rw [h2s_of_nan _ ((halfExp_halfOperand a).trans he) (by rwa [halfSig_halfOperand]), halfSign_halfOperand,
    halfSig_halfOperand, Machine.h2sNaN, packSingle_append] at hy
  constructor
  · intro hq
    rwa [hq, if_neg Bool.false_ne_true, BitVec.or_zero] at hy
  · intro hq
    rwa [hq, if_pos rfl] at hy

end Sys2Proof.Proofs.HalfToSingle
end

section
/-! PROOFS. The family of `41_single_to_half.md`: S2H on each range of the exponent field (R123 to R129) and its rounding rule (R128). -/

namespace Sys2Proof.Machine

/-! The instruction, and what it answers as a number -/

theorem answers_s2h (sgn : SignSel) (a : Bus) (s : State) : Answers (.s2h sgn a) s (halfResult (s2h a)) := rfl

theorem answers_s2h_of_toNat {a : Bus} {n : Nat} (sgn : SignSel) (s : State) (h : (s2h a).toNat = n) :
    Answers (.s2h sgn a) s (BitVec.ofNat 32 n) := by
  rw [← h, BitVec.ofNat_toNat]
  exact answers_s2h sgn a s

/-! One equation per range of the exponent field (R120, R124) -/

theorem singleExp_ne_255 {f : Single} (h : (singleExp f).toNat ≤ 254) : singleExp f ≠ 255#8 := by
  intro he
  simp [he] at h

theorem s2h_of_infNaN {f : Single} (he : singleExp f = 255#8) : s2h f = s2hInfNaN (singleSign f) (singleSig f) :=
  if_pos he

theorem s2h_of_overflow {f : Single} (hlo : 143 ≤ (singleExp f).toNat) (hhi : (singleExp f).toNat ≤ 254) :
    s2h f = s2hInfinity (singleSign f) := by
  have ht : targetExp (singleExp f) ≥ 31 := by rw [targetExp]; omega
  simp only [s2h, if_neg (singleExp_ne_255 hhi), if_pos ht]

/-- At and below the exponent field 112 the result is not normal; the shift amount is `126 - fe` (R124, R126). -/
theorem s2h_of_targetExp_nonpos {f : Single} (he : (singleExp f).toNat ≤ 112) :
    s2h f = if 126 - (singleExp f).toNat > 24 then s2hZero (singleSign f)
      else s2hUnderflow (singleSign f) (singleSig f) (126 - (singleExp f).toNat) := by
  have h31 : ¬ targetExp (singleExp f) ≥ 31 := by rw [targetExp]; omega
  have h0 : targetExp (singleExp f) ≤ 0 := by rw [targetExp]; omega
  have hsh : (14 - targetExp (singleExp f)).toNat = 126 - (singleExp f).toNat := by rw [targetExp]; omega
  simp only [s2h, if_neg (singleExp_ne_255 (f := f) (by omega)), if_neg h31, if_pos h0, hsh]

theorem s2h_of_flush {f : Single} (he : (singleExp f).toNat ≤ 101) : s2h f = s2hZero (singleSign f) := by
  rw [s2h_of_targetExp_nonpos (by omega), if_pos (by omega)]

theorem s2h_of_underflow {f : Single} (hlo : 102 ≤ (singleExp f).toNat) (hhi : (singleExp f).toNat ≤ 112) :
    s2h f = s2hUnderflow (singleSign f) (singleSig f) (126 - (singleExp f).toNat) := by
  rw [s2h_of_targetExp_nonpos hhi, if_neg (by omega)]

theorem s2h_of_normal {f : Single} (hlo : 113 ≤ (singleExp f).toNat) (hhi : (singleExp f).toNat ≤ 142) :
    s2h f = s2hNormal (singleSign f) (targetExp (singleExp f)) (singleSig f) := by
  have h31 : ¬ targetExp (singleExp f) ≥ 31 := by rw [targetExp]; omega
  have h0 : ¬ targetExp (singleExp f) ≤ 0 := by rw [targetExp]; omega
  simp only [s2h, if_neg (singleExp_ne_255 (f := f) (by omega)), if_neg h31, if_neg h0]

/-! The packed forms -/

theorem s2hZero_eq_append (fs : BitVec 1) : s2hZero fs = fs ++ 0#15 := by
  have assoc : fs ++ 0#5 ++ 0#10 = fs ++ (0#5 ++ 0#10) := BitVec.append_assoc
  rw [s2hZero, packHalf, assoc, BitVec.zero_append_zero]

theorem s2hZero_toNat (fs : BitVec 1) : (s2hZero fs).toNat = fs.toNat <<< 15 := by
  rw [s2hZero_eq_append, BitVec.toNat_append, BitVec.toNat_ofNat, Nat.zero_mod, Nat.or_zero]

/-- Bits ORed into the significand field change no other field. -/
theorem packHalf_or_setWidth (s : BitVec 1) (e : BitVec 5) (m k : BitVec 10) :
    packHalf s e m ||| k.setWidth 16 = packHalf s e (m ||| k) := by
  have hk : k.setWidth 16 = packHalf 0#1 0#5 k := by
    rw [packHalf, BitVec.zero_append_zero, BitVec.setWidth_eq_append (by decide), BitVec.cast_eq]
  rw [hk, packHalf, packHalf, BitVec.or_append, BitVec.or_append, BitVec.or_zero, BitVec.or_zero, packHalf]

/-- `zext_32` of a half written as its fields (R66). -/
theorem halfResult_packHalf (s : BitVec 1) (e : BitVec 5) (m : BitVec 10) :
    halfResult (packHalf s e m) = 0#16 ++ s ++ e ++ m := by
  have h1 : 0#16 ++ s ++ e = 0#16 ++ (s ++ e) := BitVec.append_assoc
  have h2 : 0#16 ++ (s ++ e) ++ m = 0#16 ++ (s ++ e ++ m) := BitVec.append_assoc
  rw [h1, h2, halfResult, BitVec.zeroExtend, BitVec.setWidth_eq_append (by decide), BitVec.cast_eq, packHalf]

theorem halfResult_s2hZero (fs : BitVec 1) : halfResult (s2hZero fs) = 0#16 ++ fs ++ 0#15 := by
  have h1 : 0#16 ++ fs ++ 0#15 = 0#16 ++ (fs ++ 0#15) := BitVec.append_assoc
  rw [h1, s2hZero_eq_append, halfResult, BitVec.zeroExtend, BitVec.setWidth_eq_append (by decide), BitVec.cast_eq]

/-! Infinities and NaNs (R123) -/

theorem s2hInfNaN_of_zero (fs : BitVec 1) : s2hInfNaN fs 0#23 = s2hInfinity fs := by
  rw [s2hInfNaN, if_pos rfl, BitVec.or_zero, BitVec.extractLsb'_zero, BitVec.zeroExtend, BitVec.setWidth_zero, BitVec.or_zero]

theorem s2hInfNaN_of_ne_zero {fm : BitVec 23} (fs : BitVec 1) (h : fm ≠ 0#23) :
    s2hInfNaN fs fm = packHalf fs 0b11111#5 (fm.extractLsb' 13 10 ||| 0x200#10) := by
  have quiet : 0x0200#16 = (0x200#10).setWidth 16 := rfl
  rw [s2hInfNaN, if_neg h, s2hInfinity, quiet, packHalf_or_setWidth, BitVec.zeroExtend, packHalf_or_setWidth,
    BitVec.zero_or, BitVec.or_comm]

/-! The rounding rule (R128), on numbers -/

/-- The rounding increment of `c` shifted right by `n`, 0 or 1. -/
def roundUp (c n : Nat) : Nat :=
  if c / 2 ^ (n - 1) % 2 = 1 ∧ (c % 2 ^ (n - 1) ≠ 0 ∨ c / 2 ^ n % 2 = 1) then 1 else 0

theorem roundUp_le_one (c n : Nat) : roundUp c n ≤ 1 := by
  rw [roundUp]; split <;> decide

theorem getLsbD_iff_div_mod {w : Nat} (v : BitVec w) (i : Nat) : v.getLsbD i = true ↔ v.toNat / 2 ^ i % 2 = 1 := by
  rw [← BitVec.testBit_toNat, Nat.testBit_eq_decide_div_mod_eq, decide_eq_true_iff]

theorem roundIncrement_iff {w : Nat} (v : BitVec w) (n : Nat) :
    roundIncrement (firstDiscarded v n) (lowerDiscarded v n) ((v >>> n).getLsbD 0) = true ↔
      v.toNat / 2 ^ (n - 1) % 2 = 1 ∧ (v.toNat % 2 ^ (n - 1) ≠ 0 ∨ v.toNat / 2 ^ n % 2 = 1) := by
  rw [roundIncrement, Bool.and_eq_true, Bool.or_eq_true, BitVec.getLsbD_ushiftRight, Nat.add_zero, firstDiscarded,
    lowerDiscarded, getLsbD_iff_div_mod, getLsbD_iff_div_mod, bne_iff_ne]

theorem roundIncrement_toNat {w : Nat} (v : BitVec w) (n : Nat) :
    (roundIncrement (firstDiscarded v n) (lowerDiscarded v n) ((v >>> n).getLsbD 0)).toNat = roundUp v.toNat n := by
  rw [roundUp, Bool.toNat, Bool.cond_eq_ite, if_congr (roundIncrement_iff v n) rfl rfl]

/-- The discarded part is the first discarded bit above the lower ones. -/
theorem mod_two_pow_eq_first_add_lower (c : Nat) {n : Nat} (hn : 1 ≤ n) :
    c % 2 ^ n = c % 2 ^ (n - 1) + 2 ^ (n - 1) * (c / 2 ^ (n - 1) % 2) := by
  rw [← Nat.two_pow_pred_mul_two hn, Nat.mod_mul]

/-! Underflow (R126, R127) -/

/-- The significand with its implicit bit restored. -/
theorem implicitBit_append_toNat (fm : BitVec 23) : (1#1 ++ fm).toNat = 0x800000 + fm.toNat := by
  rw [BitVec.toNat_append, ← Nat.shiftLeft_add_eq_or_of_lt fm.isLt]
  rfl

/-- Shifted right by 25 or more, the 24-bit significand leaves no bit to keep and none to round by (R126). -/
theorem s2hUnderflow_of_ge {sh : Nat} (fs : BitVec 1) (fm : BitVec 23) (h : 25 ≤ sh) :
    s2hUnderflow fs fm sh = s2hZero fs := by
  have hq : (1#1 ++ fm) >>> sh = 0#24 := BitVec.ushiftRight_eq_zero (by omega)
  have hfirst : firstDiscarded (1#1 ++ fm) sh = false := BitVec.getLsbD_of_ge _ _ (by omega)
  simp [s2hUnderflow, hq, hfirst, roundIncrement]

theorem s2hUnderflow_toNat {sh : Nat} (fs : BitVec 1) (fm : BitVec 23)
    (h : (0x800000 + fm.toNat) / 2 ^ sh + roundUp (0x800000 + fm.toNat) sh ≤ 0x400) :
    (s2hUnderflow fs fm sh).toNat =
      fs.toNat * 0x8000 + ((0x800000 + fm.toNat) / 2 ^ sh + roundUp (0x800000 + fm.toNat) sh) := by
  rw [s2hUnderflow, BitVec.toNat_or, s2hZero_toNat, roundIncrement_toNat, BitVec.toNat_ushiftRight,
    implicitBit_append_toNat, Nat.shiftRight_eq_div_pow, BitVec.toNat_ofNat, Nat.mod_eq_of_lt (by omega),
    ← Nat.shiftLeft_add_eq_or_of_lt (by omega), Nat.shiftLeft_eq]

/-- The kept part of a 24-bit significand whose leading bit is 1 (R127). -/
theorem div_two_pow_bounds {c sh : Nat} (hlo : 2 ^ 23 ≤ c) (hhi : c < 2 ^ 24) (hsh : sh ≤ 24) :
    c / 2 ^ sh < 2 ^ (24 - sh) ∧ (sh ≤ 23 → 2 ^ (23 - sh) ≤ c / 2 ^ sh) := by
  constructor
  · rw [Nat.div_lt_iff_lt_mul (Nat.two_pow_pos sh), ← Nat.pow_add, Nat.sub_add_cancel hsh]
    exact hhi
  · intro h
    rw [Nat.le_div_iff_mul_le (Nat.two_pow_pos sh), ← Nat.pow_add, Nat.sub_add_cancel h]
    exact hlo

/-! The normal range (R129) -/

/-- The last kept bit of R129 is that of the shifted significand. -/
theorem getLsbD_extractLsb'_13 (fm : BitVec 23) : (fm.extractLsb' 13 10).getLsbD 0 = (fm >>> 13).getLsbD 0 := by
  rw [BitVec.getLsbD_extractLsb', BitVec.getLsbD_ushiftRight]
  rfl

theorem s2hNormal_toNat {t : Nat} (fs : BitVec 1) (fm : BitVec 23) (ht : t ≤ 30) :
    (s2hNormal fs t fm).toNat = fs.toNat * 0x8000 + (t * 2 ^ 10 + fm.toNat / 2 ^ 13 + roundUp fm.toNat 13) := by
  have hfs := fs.isLt
  have hq : fm.toNat / 2 ^ 13 < 2 ^ 10 := by have := fm.isLt; omega
  have hinc := roundUp_le_one fm.toNat 13
  have hword : (packHalf fs (BitVec.ofInt 5 t) (fm.extractLsb' 13 10)).toNat =
      fs.toNat * 2 ^ 15 + t * 2 ^ 10 + fm.toNat / 2 ^ 13 := by
    rw [packHalf_toNat, BitVec.ofInt_natCast, BitVec.toNat_ofNat, Nat.mod_eq_of_lt (by omega), BitVec.extractLsb'_toNat,
      Nat.shiftRight_eq_div_pow, Nat.mod_eq_of_lt hq]
  rw [s2hNormal, BitVec.toNat_add, hword, getLsbD_extractLsb'_13, BitVec.zeroExtend, BitVec.toNat_setWidth,
    BitVec.toNat_ofBool, roundIncrement_toNat]
  omega

end Sys2Proof.Machine

namespace Sys2Proof.Proofs.SingleToHalf

open Sys2Proof.Machine

/-- Settles O32: the flush arm of S2H (R126), and no bit left of a significand shifted by 25 or more. -/
theorem s2hFlush : Obligations.S2hFlush := by
  refine ⟨fun s sgn a he => ?_, fun fs fm sh hsh => ?_⟩
  · have hy := answers_s2h sgn a s
    rwa [s2h_of_flush he, halfResult_s2hZero] at hy
  · rw [s2hUnderflow_of_ge fs fm hsh, s2hZero_eq_append]

/-- Settles O33: the underflow arm of S2H (R127). The kept part has at most ten bits, so `q + inc` is at most `0x400`. -/
theorem s2hSubnormal : Obligations.S2hSubnormal := by
  intro s sgn a hlo hhi c sh q inc
  have hfm := (a.extractLsb' 0 23).isLt
  obtain ⟨hq, hq'⟩ := div_two_pow_bounds (c := c) (sh := sh) (by omega) (by omega) (by omega)
  have hten : 2 ^ (24 - sh) ≤ 2 ^ 10 := Nat.pow_le_pow_right (by decide) (by omega)
  have hinc : inc ≤ 1 := roundUp_le_one c sh
  have hsum : q + inc ≤ 0x400 := by omega
  refine ⟨hq, hq', hsum, answers_s2h_of_toNat sgn s ?_⟩
  rw [s2h_of_underflow hlo hhi]
  exact s2hUnderflow_toNat _ _ hsum

/-- Settles O34: the normal arm of S2H (R129). The largest word without its sign is `30 * 2^10 + 0x3FF`, so the increment carries to
`0x7C00` at most, never into the sign. -/
theorem s2hNormal : Obligations.S2hNormal := by
  intro s sgn a hlo hhi fm q inc
  have hfm : fm < 2 ^ 23 := (a.extractLsb' 0 23).isLt
  have hinc : inc ≤ 1 := roundUp_le_one fm 13
  refine ⟨by omega, answers_s2h_of_toNat sgn s ?_⟩
  have ht : targetExp (singleExp a) = ((a.extractLsb' 23 8).toNat - 112 : Nat) := by
    rw [targetExp, singleExp]; omega
  rw [s2h_of_normal hlo hhi, ht]
  exact s2hNormal_toNat _ _ (by omega)

/-- Settles O35: the four cases of R128, the first discarded bit being worth half of the last kept place. -/
theorem roundIncrementIsNearestEven : Obligations.RoundIncrementIsNearestEven := by
  intro w v n hn
  have hlower : v.toNat % 2 ^ (n - 1) < 2 ^ (n - 1) := Nat.mod_lt _ (Nat.two_pow_pos _)
  have hhalf : 2 ^ (n - 1) * 2 = 2 ^ n := Nat.two_pow_pred_mul_two hn
  rw [roundIncrement_iff, mod_two_pow_eq_first_add_lower _ hn]
  obtain hfirst | hfirst := Nat.mod_two_eq_zero_or_one (v.toNat / 2 ^ (n - 1))
  · rw [hfirst]; omega
  · rw [hfirst]; omega

/-- Settles O30: the arm of S2H for an exponent field of ones (R123). -/
theorem s2hInfinityAndNaN : Obligations.S2hInfinityAndNaN := by
  intro s sgn a he
  have hy := answers_s2h sgn a s
  rw [s2h_of_infNaN he, singleSign, singleSig] at hy
  constructor
  · intro hm
    rwa [hm, s2hInfNaN_of_zero, s2hInfinity, halfResult_packHalf] at hy
  · intro hm
    have hm13 : (a.extractLsb' 0 23).extractLsb' 13 10 = a.extractLsb' 13 10 :=
      BitVec.extractLsb'_extractLsb'_of_le (by decide)
    rwa [s2hInfNaN_of_ne_zero _ hm, halfResult_packHalf, hm13] at hy

/-- Settles O31: the overflow arm of S2H (R125). -/
theorem s2hOverflow : Obligations.S2hOverflow := by
  intro s sgn a hlo hhi
  have hy := answers_s2h sgn a s
  rwa [s2h_of_overflow hlo hhi, s2hInfinity, halfResult_packHalf] at hy

end Sys2Proof.Proofs.SingleToHalf
end

section
/-! PROOFS. The family of `42_classifier.md`: the five predicates ISNAN, ISINF, ISFINITE, ISNORMAL and SIGNBIT (R150 to R154). -/

namespace Sys2Proof.Machine

/-! The instructions, and the request words that decode to them -/

theorem decode_append (op : OpCode) (sgn : SignSel) (a : Bus) :
    decode (op ++ sgn ++ a : RequestWord) = decodeFields op sgn a := by
  have word : op ++ sgn ++ a = requestWord op sgn a := rfl
  rw [word, decode, opField_requestWord, sgnField_requestWord, aField_requestWord]

theorem answers_isnan (sgn : SignSel) (a : Bus) (s : State) :
    Answers (.isnan sgn a) s (boolResult (isNaN (halfOperand a))) := rfl

theorem answers_isinf (sgn : SignSel) (a : Bus) (s : State) :
    Answers (.isinf sgn a) s (boolResult (isInf (halfOperand a) sgn)) := rfl

theorem answers_isfinite (sgn : SignSel) (a : Bus) (s : State) :
    Answers (.isfinite sgn a) s (boolResult (isFinite (halfOperand a))) := rfl

theorem answers_isnormal (sgn : SignSel) (a : Bus) (s : State) :
    Answers (.isnormal sgn a) s (boolResult (isNormal (halfOperand a))) := rfl

theorem answers_signbit (sgn : SignSel) (a : Bus) (s : State) :
    Answers (.signbit sgn a) s (boolResult (signbit (halfOperand a))) := rfl

/-- A Boolean result as `if` writes it: 1 where the condition holds, else 0 (R66). -/
theorem boolResult_eq_ite {b : Bool} {P : Prop} [Decidable P] (h : b = true ↔ P) :
    boolResult b = if P then 1#32 else 0#32 := by
  split
  · next hP => rw [h.mpr hP]; rfl
  · next hP => rw [Bool.eq_false_iff.mpr (mt h.mp hP)]; rfl

theorem Answers.ite_of_boolResult {i : Instr} {s : State} {b : Bool} {P : Prop} [Decidable P]
    (hy : Answers i s (boolResult b)) (h : b = true ↔ P) : Answers i s (if P then 1#32 else 0#32) :=
  boolResult_eq_ite h ▸ hy

/-! The masks' comparisons as conditions on one field (R14) -/

theorem and_expMask_eq_ones_iff (p : Half) : p &&& 0x7C00#16 = 0x7C00#16 ↔ halfExp p = 31#5 := by
  have ones : 0x7C00#16 = packHalf 0#1 31#5 0#10 := rfl
  rw [and_expMask, ones, packHalf_inj]
  simp

theorem and_expMask_eq_zero_iff (p : Half) : p &&& 0x7C00#16 = 0#16 ↔ halfExp p = 0#5 := by
  have zero : 0#16 = packHalf 0#1 0#5 0#10 := rfl
  rw [and_expMask, zero, packHalf_inj]
  simp

theorem and_sigMask_eq_zero_iff (p : Half) : p &&& 0x03FF#16 = 0#16 ↔ halfSig p = 0#10 := by
  have zero : 0#16 = packHalf 0#1 0#5 0#10 := rfl
  rw [and_sigMask, zero, packHalf_inj]
  simp

theorem and_signMask_eq_zero_iff (p : Half) : p &&& 0x8000#16 = 0#16 ↔ halfSign p = 0#1 := by
  have zero : 0#16 = packHalf 0#1 0#5 0#10 := rfl
  rw [and_signMask, zero, packHalf_inj]
  simp

/-! The predicates as conditions on the fields -/

theorem isNaN_iff (p : Half) : isNaN p = true ↔ halfExp p = 31#5 ∧ halfSig p ≠ 0#10 := by
  rw [isNaN, Bool.and_eq_true, beq_iff_eq, bne_iff_ne, and_expMask_eq_ones_iff, Ne, and_sigMask_eq_zero_iff]

theorem isFinite_iff (p : Half) : isFinite p = true ↔ halfExp p ≠ 31#5 := by
  rw [isFinite, bne_iff_ne, Ne, and_expMask_eq_ones_iff]

theorem isNormal_iff (p : Half) : isNormal p = true ↔ halfExp p ≠ 31#5 ∧ halfExp p ≠ 0#5 := by
  rw [isNormal, Bool.and_eq_true, bne_iff_ne, bne_iff_ne, Ne, and_expMask_eq_ones_iff, Ne, and_expMask_eq_zero_iff]

theorem signbit_iff (p : Half) : signbit p = true ↔ halfSign p = 1#1 := by
  have bit : halfSign p ≠ 0#1 ↔ halfSign p = 1#1 := by bv_omega
  rw [signbit, bne_iff_ne, Ne, and_signMask_eq_zero_iff, ← Ne, bit]

/-- An exponent field that is neither all ones nor zero lies from 1 to 30. -/
theorem exp_ne_ends_iff (e : BitVec 5) : e ≠ 31#5 ∧ e ≠ 0#5 ↔ 1 ≤ e.toNat ∧ e.toNat ≤ 30 := by
  bv_omega

/-! The sign selector as a signed integer (R65), and IsInf under each of its signs (R151) -/

theorem sgnNeg_iff (sgn : SignSel) : sgnNeg sgn = true ↔ sgn.toInt < 0 := by
  rw [sgnNeg, ← BitVec.msb_eq_getLsbD_last, BitVec.msb_eq_toInt, decide_eq_true_iff]

theorem sgnPos_iff (sgn : SignSel) : sgnPos sgn = true ↔ 0 < sgn.toInt := by
  have hneg : sgn.getLsbD 3 = true ↔ sgn.toInt < 0 := sgnNeg_iff sgn
  have hzero : sgn = 0#4 ↔ sgn.toInt = 0 := by rw [← BitVec.toInt_inj, BitVec.toInt_zero]
  rw [sgnPos, Bool.and_eq_true, Bool.not_eq_true', Bool.eq_false_iff, bne_iff_ne, Ne, Ne, hneg, hzero]
  omega

theorem isInf_of_pos {sgn : SignSel} (p : Half) (h : 0 < sgn.toInt) : isInf p sgn = true ↔ p = 0x7C00#16 := by
  rw [isInf, if_pos ((sgnPos_iff sgn).mpr h), beq_iff_eq]

theorem isInf_of_neg {sgn : SignSel} (p : Half) (h : sgn.toInt < 0) : isInf p sgn = true ↔ p = 0xFC00#16 := by
  have hpos : ¬ sgnPos sgn = true := by rw [sgnPos_iff]; omega
  rw [isInf, if_neg hpos, if_pos ((sgnNeg_iff sgn).mpr h), beq_iff_eq]

theorem isInf_of_zero {sgn : SignSel} (p : Half) (h : sgn.toInt = 0) :
    isInf p sgn = true ↔ p = 0x7C00#16 ∨ p = 0xFC00#16 := by
  have hpos : ¬ sgnPos sgn = true := by rw [sgnPos_iff]; omega
  have hneg : ¬ sgnNeg sgn = true := by rw [sgnNeg_iff]; omega
  rw [isInf, if_neg hpos, if_neg hneg, Bool.or_eq_true, beq_iff_eq, beq_iff_eq]

end Sys2Proof.Machine

namespace Sys2Proof.Proofs.Classifier

open Sys2Proof.Machine

/-- Settles O43: IsNaN of the fields of `a[15:0]` (R150). -/
theorem isnanAnswers : Obligations.IsnanAnswers := by
  intro s sgn a
  refine ⟨decode_append 0x3#4 sgn a, ?_⟩
  have hb := isNaN_iff (halfOperand a)
  rw [halfExp_halfOperand, halfSig_halfOperand] at hb
  exact (answers_isnan sgn a s).ite_of_boolResult hb

/-- Settles O44: IsInf under a positive, a negative and a zero selector (R151). -/
theorem isinfAnswers : Obligations.IsinfAnswers := by
  intro s sgn a
  refine ⟨decode_append 0x4#4 sgn a, fun hpos => ?_, fun hneg => ?_, fun hzero => ?_⟩
  · exact (answers_isinf sgn a s).ite_of_boolResult (isInf_of_pos (halfOperand a) hpos)
  · exact (answers_isinf sgn a s).ite_of_boolResult (isInf_of_neg (halfOperand a) hneg)
  · exact (answers_isinf sgn a s).ite_of_boolResult (isInf_of_zero (halfOperand a) hzero)

/-- Settles O45: IsFinite of the exponent field of `a[15:0]` (R152). -/
theorem isfiniteAnswers : Obligations.IsfiniteAnswers := by
  intro s sgn a
  refine ⟨decode_append 0x5#4 sgn a, ?_⟩
  have hb := isFinite_iff (halfOperand a)
  rw [halfExp_halfOperand] at hb
  exact (answers_isfinite sgn a s).ite_of_boolResult hb

/-- Settles O46: IsNormal of the exponent field of `a[15:0]` (R153), as a range. -/
theorem isnormalAnswers : Obligations.IsnormalAnswers := by
  intro s sgn a
  refine ⟨decode_append 0x6#4 sgn a, ?_⟩
  have hb := isNormal_iff (halfOperand a)
  rw [halfExp_halfOperand, exp_ne_ends_iff] at hb
  exact (answers_isnormal sgn a s).ite_of_boolResult hb

/-- Settles O47: Signbit of `a[15:0]` is bit 15 of `a` (R154). -/
theorem signbitAnswers : Obligations.SignbitAnswers := by
  intro s sgn a
  refine ⟨decode_append 0x7#4 sgn a, ?_⟩
  have hbit : a.getLsbD 15 = true ↔ a.extractLsb' 15 1 = 1#1 := by rw [BitVec.getLsbD_eq_extractLsb', beq_iff_eq]
  have hb := signbit_iff (halfOperand a)
  rw [halfSign_halfOperand, ← hbit] at hb
  exact (answers_signbit sgn a s).ite_of_boolResult hb

end Sys2Proof.Proofs.Classifier
end

section
/-! PROOFS. The family of `43_constructors.md`: FROMBITS and INF (R170, R173), and how the constants convert (R175). -/

namespace Sys2Proof.Machine

/-! The instructions, and a half result as a concatenation (R66) -/

theorem answers_frombits (sgn : SignSel) (a : Bus) (s : State) :
    Answers (.frombits sgn a) s (halfResult (halfOperand a)) := rfl

theorem answers_inf (sgn : SignSel) (a : Bus) (s : State) : Answers (.inf sgn a) s (halfResult (infPattern sgn)) := rfl

theorem halfResult_eq_append (r : Half) : halfResult r = 0#16 ++ r := by
  rw [halfResult, BitVec.zeroExtend, BitVec.setWidth_eq_append (by decide), BitVec.cast_eq]

theorem halfResult_infPattern (sgn : SignSel) :
    halfResult (infPattern sgn) = if sgn.toInt < 0 then 0x0000FC00#32 else 0x00007C00#32 := by
  rw [infPattern, if_congr (sgnNeg_iff sgn) rfl rfl, apply_ite halfResult]
  rfl

/-! A single that is no NaN gives no NaN: the sizes of the results (R125, R126, R127, R129) -/

theorem s2hUnderflow_magnitude_le {sh : Nat} (fs : BitVec 1) (fm : BitVec 23) (hlo : 14 ≤ sh) (hhi : sh ≤ 24) :
    (s2hUnderflow fs fm sh).toNat % 2 ^ 15 ≤ 0x400 := by
  have hfm := fm.isLt
  obtain ⟨hkept, -⟩ := div_two_pow_bounds (c := 0x800000 + fm.toNat) (by omega) (by omega) hhi
  have hten : 2 ^ (24 - sh) ≤ 2 ^ 10 := Nat.pow_le_pow_right (by decide) (by omega)
  have hinc := roundUp_le_one (0x800000 + fm.toNat) sh
  have hsum : (0x800000 + fm.toNat) / 2 ^ sh + roundUp (0x800000 + fm.toNat) sh ≤ 0x400 := by omega
  rw [s2hUnderflow_toNat fs fm hsum]
  exact (Nat.mul_add_mod' fs.toNat (2 ^ 15) _).trans_le ((Nat.mod_le _ _).trans hsum)

theorem s2hNormal_magnitude_le {t : Nat} (fs : BitVec 1) (fm : BitVec 23) (ht : t ≤ 30) :
    (s2hNormal fs t fm).toNat % 2 ^ 15 ≤ 0x7C00 := by
  have hfm := fm.isLt
  have hinc := roundUp_le_one fm.toNat 13
  rw [s2hNormal_toNat fs fm ht]
  omega

theorem s2hInfinity_magnitude (fs : BitVec 1) : (s2hInfinity fs).toNat % 2 ^ 15 = 0x7C00 := by
  rw [s2hInfinity, packHalf_toNat, BitVec.toNat_ofNat, BitVec.toNat_ofNat]
  omega

theorem s2h_of_infinity {f : Single} (he : singleExp f = 255#8) (hm : singleSig f = 0#23) :
    s2h f = s2hInfinity (singleSign f) := by
  rw [s2h_of_infNaN he, hm, s2hInfNaN_of_zero]

/-- The magnitude patterns of NaNs are those above the infinity's (R29). -/
theorem single_isNaN_iff (f : Single) :
    singleExp f = 255#8 ∧ singleSig f ≠ 0#23 ↔ 0x7F800000 < f.toNat % 2 ^ 31 := by
  have he := singleExp_toNat f
  have hm := singleSig_toNat f
  rw [Ne, ← BitVec.toNat_inj, ← BitVec.toNat_inj, he, hm, BitVec.toNat_ofNat, BitVec.toNat_ofNat]
  omega

/-- The largest magnitude pattern of a result that is no NaN is the infinity's. -/
theorem s2h_magnitude_le {f : Single} (h : f.toNat % 2 ^ 31 ≤ 0x7F800000) : (s2h f).toNat % 2 ^ 15 ≤ 0x7C00 := by
  obtain hflush | ⟨hlo, hhi⟩ | ⟨hlo, hhi⟩ | ⟨hlo, hhi⟩ | hones : (singleExp f).toNat ≤ 101 ∨
      (102 ≤ (singleExp f).toNat ∧ (singleExp f).toNat ≤ 112) ∨
      (113 ≤ (singleExp f).toNat ∧ (singleExp f).toNat ≤ 142) ∨
      (143 ≤ (singleExp f).toNat ∧ (singleExp f).toNat ≤ 254) ∨ singleExp f = 255#8 := by bv_omega
  · rw [s2h_of_flush hflush, s2hZero_toNat, Nat.shiftLeft_eq, Nat.mul_mod_left]
    exact Nat.zero_le _
  · rw [s2h_of_underflow hlo hhi]
    exact (s2hUnderflow_magnitude_le _ _ (by omega) (by omega)).trans (by decide)
  · have ht : targetExp (singleExp f) = ((singleExp f).toNat - 112 : Nat) := by rw [targetExp]; omega
    rw [s2h_of_normal hlo hhi, ht]
    exact s2hNormal_magnitude_le _ _ (by omega)
  · rw [s2h_of_overflow hlo hhi, s2hInfinity_magnitude]
  · have hm : singleSig f = 0#23 := by
      by_contra hne
      exact absurd ((single_isNaN_iff f).mp ⟨hones, hne⟩) (Nat.not_lt.mpr h)
    rw [s2h_of_infinity hones hm, s2hInfinity_magnitude]

/-! Which NaNs give `0x7FFF` (R123): the quiet-NaN indicator supplies bit 9, whatever bit 22 of the single is -/

theorem append_or_quietBit (b : BitVec 1) (m : BitVec 9) : (b ++ m) ||| 0x200#10 = 1#1 ++ m := by
  have quiet : 0x200#10 = BitVec.allOnes 1 ++ 0#9 := rfl
  rw [quiet, BitVec.or_append, BitVec.or_allOnes, BitVec.or_zero]
  rfl

theorem singleSig_top_or_quietBit (f : Single) :
    (singleSig f).extractLsb' 13 10 ||| 0x200#10 = 1#1 ++ f.extractLsb' 13 9 := by
  have top : (singleSig f).extractLsb' 13 10 = f.extractLsb' 13 10 := BitVec.extractLsb'_extractLsb'_of_le (by decide)
  have split : f.extractLsb' 22 1 ++ f.extractLsb' 13 9 = f.extractLsb' 13 10 :=
    BitVec.extractLsb'_append_extractLsb'_eq_extractLsb' rfl
  rw [top, ← split, append_or_quietBit]

theorem s2h_of_nan {f : Single} (he : singleExp f = 255#8) (hm : singleSig f ≠ 0#23) :
    s2h f = packHalf (singleSign f) 31#5 (1#1 ++ f.extractLsb' 13 9) := by
  rw [s2h_of_infNaN he, s2hInfNaN_of_ne_zero _ hm, singleSig_top_or_quietBit]

theorem s2h_nan_eq_7FFF_iff {f : Single} (he : singleExp f = 255#8) (hm : singleSig f ≠ 0#23) :
    s2h f = 0x7FFF#16 ↔ singleSign f = 0#1 ∧ f.extractLsb' 13 9 = 0x1FF#9 := by
  have fields : 0x7FFF#16 = packHalf 0#1 31#5 (1#1 ++ 0x1FF#9) := rfl
  rw [s2h_of_nan he hm, fields, packHalf_inj, BitVec.append_right_inj, eq_self_iff_true, true_and]

/-- Bit 22 of the single, free in both, tells the two ranges of R175 apart. -/
theorem s2h_eq_7FFF_iff (f : Single) :
    s2h f = 0x7FFF#16 ↔
      (0x7FFFE000 ≤ f.toNat ∧ f.toNat ≤ 0x7FFFFFFF) ∨ (0x7FBFE000 ≤ f.toNat ∧ f.toNat ≤ 0x7FBFFFFF) := by
  obtain hle | hnan := le_or_gt (f.toNat % 2 ^ 31) 0x7F800000
  · have hr := s2h_magnitude_le hle
    refine iff_of_false (fun h => ?_) (by omega)
    rw [h] at hr
    exact absurd hr (by decide)
  · obtain ⟨he, hm⟩ := (single_isNaN_iff f).mpr hnan
    rw [s2h_nan_eq_7FFF_iff he hm, ← BitVec.toNat_inj, ← BitVec.toNat_inj, singleSign_toNat, BitVec.extractLsb'_toNat,
      Nat.shiftRight_eq_div_pow, BitVec.toNat_ofNat, BitVec.toNat_ofNat]
    omega

end Sys2Proof.Machine

namespace Sys2Proof.Proofs.Constructors

open Sys2Proof.Machine

/-- Settles O55: the arms of H2S and S2H for infinities and NaNs (R103, R106, R123), and the NaNs S2H makes `0x7FFF` of. -/
theorem constantsConvert : Obligations.ConstantsConvert := by
  refine ⟨fun q => ⟨h2s_of_infinity q rfl rfl, h2s_of_infinity q rfl rfl, ?_⟩, s2h_of_infinity rfl rfl,
    s2h_of_infinity rfl rfl, s2h_eq_7FFF_iff⟩
  rw [h2s_of_nan q rfl (by decide)]
  cases q <;> rfl

/-- Settles O50: the operand's low half, extended by zeros (R170). -/
theorem frombitsAnswers : Obligations.FrombitsAnswers := by
  intro s sgn a
  refine ⟨decode_append 0x2#4 sgn a, ?_⟩
  have hy := answers_frombits sgn a s
  rwa [halfResult_eq_append] at hy

/-- Settles O53: the infinity of the selector's sign (R173). -/
theorem infAnswers : Obligations.InfAnswers := by
  intro s sgn a
  refine ⟨decode_append 0xA#4 sgn a, ?_⟩
  have hy := answers_inf sgn a s
  rwa [halfResult_infPattern] at hy

end Sys2Proof.Proofs.Constructors
end

section
/-! PROOFS. The family of `45_laws.md`: the conversions keep the sign (R182), the round trip through single (R184) and its idempotence
(R188). -/

namespace Sys2Proof.Machine

/-! The sign bits as fields (R14) -/

theorem getLsbD_15_eq (h : Half) : h.getLsbD 15 = (halfSign h == 1#1) := BitVec.getLsbD_eq_extractLsb' ..

theorem getLsbD_31_eq (f : Single) : f.getLsbD 31 = (singleSign f == 1#1) := BitVec.getLsbD_eq_extractLsb' ..

theorem signbit_eq_getLsbD (p : Half) : signbit p = p.getLsbD 15 := by
  rw [getLsbD_15_eq, Bool.eq_iff_iff, signbit_iff, beq_iff_eq]

/-! The sign of what H2S answers (R102) -/

/-- The forced quiet bit of R106 is a bit of the significand. -/
theorem h2sNaN_eq_packSingle (q : Bool) (s : BitVec 1) (m : BitVec 10) :
    h2sNaN q s m = packSingle s 0xFF#8 ((if q then m ||| 0x200#10 else m) ++ 0#13) := by
  cases q with
  | false => exact BitVec.or_zero
  | true =>
    have quiet : 0x00400000#32 = 0#1 ++ 0#8 ++ (0x200#10 ++ 0#13) := rfl
    rw [h2sNaN, if_pos rfl, if_pos rfl, quiet, packSingle, packSingle, BitVec.or_append, BitVec.or_append,
      BitVec.or_append, BitVec.or_zero, BitVec.or_zero, BitVec.or_zero]

theorem h2s_eq_packSingle (q : Bool) (h : Half) : ∃ e m, h2s q h = packSingle (halfSign h) e m := by
  rw [h2s]
  split_ifs
  · exact ⟨_, _, rfl⟩
  · exact ⟨_, _, h2sNaN_eq_packSingle q _ _⟩
  · exact ⟨_, _, rfl⟩
  · exact ⟨_, _, rfl⟩
  · exact ⟨_, _, rfl⟩

@[simp] theorem singleSign_h2s (q : Bool) (h : Half) : singleSign (h2s q h) = halfSign h := by
  obtain ⟨e, m, hy⟩ := h2s_eq_packSingle q h
  rw [hy, singleSign_packSingle]

/-! The sign of what S2H answers (R122): no rounding increment carries into it -/

theorem halfSign_eq_of_toNat {h : Half} {s : BitVec 1} {n : Nat} (hh : h.toNat = s.toNat * 0x8000 + n) (hn : n < 0x8000) :
    halfSign h = s := by
  apply BitVec.eq_of_toNat_eq
  rw [halfSign_toNat]; omega

theorem underflow_sum_le {sh : Nat} (fm : BitVec 23) (hlo : 14 ≤ sh) (hhi : sh ≤ 24) :
    (0x800000 + fm.toNat) / 2 ^ sh + roundUp (0x800000 + fm.toNat) sh ≤ 0x400 := by
  have hfm := fm.isLt
  obtain ⟨hkept, -⟩ := div_two_pow_bounds (c := 0x800000 + fm.toNat) (by omega) (by omega) hhi
  have hten : 2 ^ (24 - sh) ≤ 2 ^ 10 := Nat.pow_le_pow_right (by decide) (by omega)
  have hinc := roundUp_le_one (0x800000 + fm.toNat) sh
  omega

theorem halfSign_s2hUnderflow {sh : Nat} (fs : BitVec 1) (fm : BitVec 23) (hlo : 14 ≤ sh) (hhi : sh ≤ 24) :
    halfSign (s2hUnderflow fs fm sh) = fs := by
  have hsum := underflow_sum_le fm hlo hhi
  exact halfSign_eq_of_toNat (s2hUnderflow_toNat fs fm hsum) (by omega)

theorem halfSign_s2hNormal {t : Nat} (fs : BitVec 1) (fm : BitVec 23) (ht : t ≤ 30) :
    halfSign (s2hNormal fs t fm) = fs := by
  have hfm := fm.isLt
  have hinc := roundUp_le_one fm.toNat 13
  exact halfSign_eq_of_toNat (s2hNormal_toNat fs fm ht) (by omega)

theorem halfSign_s2hInfNaN (fs : BitVec 1) (fm : BitVec 23) : halfSign (s2hInfNaN fs fm) = fs := by
  obtain rfl | hm := eq_or_ne fm 0#23
  · rw [s2hInfNaN_of_zero, s2hInfinity, halfSign_packHalf]
  · rw [s2hInfNaN_of_ne_zero fs hm, halfSign_packHalf]

@[simp] theorem halfSign_s2h (f : Single) : halfSign (s2h f) = singleSign f := by
  obtain hflush | ⟨hlo, hhi⟩ | ⟨hlo, hhi⟩ | ⟨hlo, hhi⟩ | hones : (singleExp f).toNat ≤ 101 ∨
      (102 ≤ (singleExp f).toNat ∧ (singleExp f).toNat ≤ 112) ∨
      (113 ≤ (singleExp f).toNat ∧ (singleExp f).toNat ≤ 142) ∨
      (143 ≤ (singleExp f).toNat ∧ (singleExp f).toNat ≤ 254) ∨ singleExp f = 255#8 := by bv_omega
  · rw [s2h_of_flush hflush, s2hZero, halfSign_packHalf]
  · rw [s2h_of_underflow hlo hhi]
    exact halfSign_s2hUnderflow _ _ (by omega) (by omega)
  · have ht : targetExp (singleExp f) = ((singleExp f).toNat - 112 : Nat) := by rw [targetExp]; omega
    rw [s2h_of_normal hlo hhi, ht]
    exact halfSign_s2hNormal _ _ (by omega)
  · rw [s2h_of_overflow hlo hhi, s2hInfinity, halfSign_packHalf]
  · rw [s2h_of_infNaN hones, halfSign_s2hInfNaN]

/-! The round trip through single (R184), one class of half at a time: each result of H2S fits a half, so that S2H has nothing to round -/

theorem append_zeros_toNat (m : BitVec 10) : (m ++ 0#13).toNat = m.toNat * 2 ^ 13 := by
  rw [BitVec.toNat_append, BitVec.toNat_ofNat, Nat.zero_mod, Nat.or_zero, Nat.shiftLeft_eq]

/-- Where the discarded bits are all 0 there is no increment. -/
theorem roundUp_mul_two_pow (m : Nat) {n : Nat} (hn : 1 ≤ n) : roundUp (m * 2 ^ n) n = 0 := by
  have hfirst : m * 2 ^ n / 2 ^ (n - 1) = m * 2 := by
    rw [← Nat.two_pow_pred_mul_two hn, Nat.mul_left_comm, Nat.mul_div_cancel_left _ (Nat.two_pow_pos _)]
  rw [roundUp, hfirst, if_neg (by omega)]

theorem s2h_h2sInfinity (s : BitVec 1) : s2h (h2sInfinity s) = packHalf s 31#5 0#10 := by
  rw [h2sInfinity, s2h_of_infinity (singleExp_packSingle ..) (singleSig_packSingle ..), singleSign_packSingle, s2hInfinity]

theorem s2h_h2sZero (s : BitVec 1) : s2h (h2sZero s) = packHalf s 0#5 0#10 := by
  have he : (singleExp (h2sZero s)).toNat ≤ 101 := by rw [h2sZero, singleExp_packSingle]; decide
  rw [s2h_of_flush he, h2sZero, singleSign_packSingle, s2hZero]

theorem s2hInfNaN_append_zeros {m : BitVec 10} (s : BitVec 1) (hm : m ≠ 0#10) :
    s2hInfNaN s (m ++ 0#13) = packHalf s 31#5 (m ||| 0x200#10) := by
  have hne : m ++ 0#13 ≠ 0#23 := by
    have hnat := append_zeros_toNat m
    bv_omega
  rw [s2hInfNaN_of_ne_zero s hne, BitVec.extractLsb'_append_eq_left]

/-- The significand comes back with its bit 9 set, whether H2S has set it already or not. -/
theorem s2h_h2sNaN {m : BitVec 10} (q : Bool) (s : BitVec 1) (hm : m ≠ 0#10) :
    s2h (h2sNaN q s m) = packHalf s 31#5 (m ||| 0x200#10) := by
  rw [h2sNaN_eq_packSingle, s2h_of_infNaN (singleExp_packSingle ..), singleSign_packSingle, singleSig_packSingle]
  cases q with
  | false => exact s2hInfNaN_append_zeros s hm
  | true =>
    have hne : m ||| 0x200#10 ≠ 0#10 := fun h => hm (BitVec.or_eq_zero_iff.mp h).1
    rw [if_pos rfl, s2hInfNaN_append_zeros s hne, BitVec.or_assoc, BitVec.or_self]

/-- With its implicit bit restored, the fraction of R107 is `m` shifted left by `23 - msb(m)`. -/
theorem h2sSubnormal_significand {m : BitVec 10} (hm : m ≠ 0#10) :
    0x800000 + (BitVec.ofNat 23 (m.toNat <<< (23 - msb m))).toNat = m.toNat * 2 ^ (23 - msb m) := by
  obtain ⟨hlo, hhi⟩ := normalised_bounds hm
  rw [BitVec.toNat_ofNat, Nat.shiftLeft_eq]; omega

theorem s2h_h2sSubnormal {m : BitVec 10} (s : BitVec 1) (hm : m ≠ 0#10) :
    s2h (h2sSubnormal s m) = packHalf s 0#5 m := by
  have hk := msb_lt_width hm
  have he : (singleExp (h2sSubnormal s m)).toNat = 103 + msb m := by
    rw [h2sSubnormal, singleExp_packSingle, BitVec.toNat_ofNat]; omega
  have hshift : 126 - (103 + msb m) = 23 - msb m := by omega
  have hsum := underflow_sum_le (sh := 23 - msb m) (BitVec.ofNat 23 (m.toNat <<< (23 - msb m))) (by omega) (by omega)
  have hnat := s2hUnderflow_toNat s _ hsum
  rw [h2sSubnormal_significand hm, Nat.mul_div_cancel _ (Nat.two_pow_pos _), roundUp_mul_two_pow _ (by omega)] at hnat
  rw [s2h_of_underflow (by omega) (by omega), he, hshift, h2sSubnormal, singleSign_packSingle, singleSig_packSingle]
  apply BitVec.eq_of_toNat_eq
  rw [hnat, packHalf_toNat, BitVec.toNat_ofNat]; omega

theorem s2h_h2sNormal {e : BitVec 5} (s : BitVec 1) (m : BitVec 10) (h0 : e ≠ 0#5) (h31 : e ≠ 31#5) :
    s2h (h2sNormal s e m) = packHalf s e m := by
  obtain ⟨hlo, hhi⟩ := (exp_ne_ends_iff e).mp ⟨h31, h0⟩
  have he : (singleExp (h2sNormal s e m)).toNat = e.toNat + 112 := by
    rw [h2sNormal, singleExp_packSingle, BitVec.toNat_ofNat]; omega
  have ht : targetExp (singleExp (h2sNormal s e m)) = e.toNat := by rw [targetExp, he]; omega
  rw [s2h_of_normal (by omega) (by omega), ht, h2sNormal, singleSign_packSingle, singleSig_packSingle]
  apply BitVec.eq_of_toNat_eq
  rw [s2hNormal_toNat _ _ hhi, append_zeros_toNat, roundUp_mul_two_pow _ (by decide), packHalf_toNat]; omega

/-! What the round trip makes of a half: a NaN is quieted, anything else is kept -/

/-- `h` with bit 9 set if it is a NaN, and `h` otherwise (R188). -/
def quieted (h : Half) : Half := if isNaN h = true then h ||| 0x0200#16 else h

theorem quieted_of_nan {h : Half} (hn : isNaN h = true) : quieted h = h ||| 0x0200#16 := if_pos hn

theorem quieted_of_ne_nan {h : Half} (hn : isNaN h = false) : quieted h = h := by simp [quieted, hn]

theorem or_quietBit_eq_packHalf (h : Half) :
    h ||| 0x0200#16 = packHalf (halfSign h) (halfExp h) (halfSig h ||| 0x200#10) := by
  rw [← packHalf_or_setWidth, packHalf_fields]
  rfl

theorem or_quietBit_eq_self {h : Half} (hb : h.getLsbD 9 = true) : h ||| 0x0200#16 = h := by
  have quiet : 0x0200#16 = BitVec.twoPow 16 9 := rfl
  apply BitVec.eq_of_getLsbD_eq
  intro i hi
  rw [quiet, BitVec.getLsbD_or, BitVec.getLsbD_twoPow]
  obtain rfl | hne := eq_or_ne 9 i
  · rw [hb, Bool.true_or]
  · rw [decide_eq_false hne, Bool.and_false, Bool.or_false]

/-- Only a NaN with bit 9 clear is changed. -/
theorem quieted_eq_self {h : Half} (hq : isNaN h = false ∨ h.getLsbD 9 = true) : quieted h = h := by
  obtain hn | hb := hq
  · exact quieted_of_ne_nan hn
  · rw [quieted, or_quietBit_eq_self hb, ite_self]

/-- R184 in one equation. -/
@[simp] theorem s2h_h2s (q : Bool) (h : Half) : s2h (h2s q h) = quieted h := by
  by_cases hn : halfExp h = 31#5 ∧ halfSig h ≠ 0#10
  · obtain ⟨he, hm⟩ := hn
    rw [h2s_of_nan q he hm, s2h_h2sNaN q _ hm, quieted_of_nan ((isNaN_iff h).mpr ⟨he, hm⟩), or_quietBit_eq_packHalf, he]
  rw [quieted_of_ne_nan (Bool.eq_false_iff.mpr (mt (isNaN_iff h).mp hn))]
  refine Eq.trans ?_ (packHalf_fields h)
  by_cases h31 : halfExp h = 31#5
  · have hm : halfSig h = 0#10 := by_contra fun hm => hn ⟨h31, hm⟩
    rw [h2s_of_infinity q h31 hm, s2h_h2sInfinity, h31, hm]
  by_cases h0 : halfExp h = 0#5
  · by_cases hm : halfSig h = 0#10
    · rw [h2s_of_zero q h0 hm, s2h_h2sZero, h0, hm]
    · rw [h2s_of_subnormal q h0 hm, s2h_h2sSubnormal _ hm, h0]
  · rw [h2s_of_normal q h0 h31, s2h_h2sNormal _ _ h0 h31]

/-! The patterns the round trip changes -/

/-- The magnitude patterns of half NaNs are those above the infinity's (R28). -/
theorem half_isNaN_iff (h : Half) : isNaN h = true ↔ 0x7C00 < h.toNat % 2 ^ 15 := by
  have he := halfExp_toNat h
  have hm := halfSig_toNat h
  rw [isNaN_iff, Ne, ← BitVec.toNat_inj, ← BitVec.toNat_inj, he, hm, BitVec.toNat_ofNat, BitVec.toNat_ofNat]
  omega

theorem signalling_iff (h : Half) :
    isNaN h = true ∧ h.getLsbD 9 = false ↔
      (0x7C01 ≤ h.toNat ∧ h.toNat ≤ 0x7DFF) ∨ (0xFC01 ≤ h.toNat ∧ h.toNat ≤ 0xFDFF) := by
  have hlt := h.isLt
  rw [half_isNaN_iff, Bool.eq_false_iff, Ne, getLsbD_iff_div_mod]
  omega

/-- S2H answers no signalling NaN (R123, and R125 to R129 for the other classes). -/
@[simp] theorem quieted_s2h (f : Single) : quieted (s2h f) = s2h f := by
  obtain hle | hnan := le_or_gt (f.toNat % 2 ^ 31) 0x7F800000
  · have hn : ¬ isNaN (s2h f) = true := fun h => absurd ((half_isNaN_iff _).mp h) (Nat.not_lt.mpr (s2h_magnitude_le hle))
    exact quieted_of_ne_nan (Bool.eq_false_iff.mpr hn)
  · obtain ⟨he, hm⟩ := (single_isNaN_iff f).mpr hnan
    have hor : s2h f ||| 0x0200#16 = s2h f := by
      rw [s2h_of_infNaN he, s2hInfNaN_of_ne_zero _ hm, or_quietBit_eq_packHalf, halfSign_packHalf, halfExp_packHalf,
        halfSig_packHalf, BitVec.or_assoc, BitVec.or_self]
    rw [quieted, hor, ite_self]

end Sys2Proof.Machine

namespace Sys2Proof.Proofs.Laws

open Sys2Proof.Machine

/-- Settles O36: both conversions carry the sign field through (R102, R122), and Signbit reads it (R154). -/
theorem conversionsKeepSign : Obligations.ConversionsKeepSign := by
  have hs2h (f : Single) : (s2h f).getLsbD 15 = f.getLsbD 31 := by rw [getLsbD_15_eq, getLsbD_31_eq, halfSign_s2h]
  refine ⟨fun f => ⟨hs2h f, (signbit_eq_getLsbD _).trans (hs2h f)⟩, fun q h => ?_⟩
  rw [getLsbD_15_eq, getLsbD_31_eq, singleSign_h2s]

/-- Settles O37: the round trip quiets, and the halves that quieting changes. -/
theorem roundTripThroughSingle : Obligations.RoundTripThroughSingle := by
  intro q h
  refine ⟨fun hq => ?_, fun hn _ => ?_, signalling_iff h⟩
  · rw [s2h_h2s, quieted_eq_self hq]
  · rw [s2h_h2s, quieted_of_nan hn]

/-- Settles O38: a result of S2H is quiet already, and `h'` of R188 is the round trip of `h`. -/
theorem roundTripIsIdempotent : Obligations.RoundTripIsIdempotent := by
  refine fun q => ⟨fun f => ?_, fun h => ?_⟩
  · rw [s2h_h2s, quieted_s2h]
  · rw [s2h_h2s, quieted]

end Sys2Proof.Proofs.Laws
end

section
/-! PROOFS. The request word (`30_encoding.md` R60 to R70): `decode` and `encode` are inverse to each other, the rows of R62, and what the
disassembler writes. -/

namespace Sys2Proof.Machine

open Sys2Proof.Laws

/-! Decoding and encoding -/

theorem decode_requestWord (op : OpCode) (sgn : SignSel) (a : Bus) : decode (requestWord op sgn a) = decodeFields op sgn a :=
  decode_append op sgn a

theorem decodeFields_fields (i : Instr) : decodeFields i.op i.sgn i.a = i := by
  cases i <;> rfl

@[simp] theorem decodeFields_sgn (op : OpCode) (sgn : SignSel) (a : Bus) : (decodeFields op sgn a).sgn = sgn := by
  unfold decodeFields; split <;> rfl

@[simp] theorem decodeFields_a (op : OpCode) (sgn : SignSel) (a : Bus) : (decodeFields op sgn a).a = a := by
  unfold decodeFields; split <;> rfl

@[simp] theorem decode_encode (i : Instr) : decode (encode i) = i := by
  rw [encode, decode_requestWord, decodeFields_fields]

@[simp] theorem encode_decode (w : RequestWord) : encode (decode w) = w := by
  rw [encode, decode, decodeFields_op, decodeFields_sgn, decodeFields_a, requestWord_fields]

theorem decode_eq_iff (w : RequestWord) (i : Instr) : decode w = i ↔ w = encode i := by
  constructor
  · rintro rfl; rw [encode_decode]
  · rintro rfl; rw [decode_encode]

theorem requestWord_inj {op op' : OpCode} {sgn sgn' : SignSel} {a a' : Bus} :
    requestWord op sgn a = requestWord op' sgn' a' ↔ op = op' ∧ sgn = sgn' ∧ a = a' := by
  constructor
  · intro h
    exact ⟨by simpa [opField_requestWord] using congrArg opField h, by simpa [sgnField_requestWord] using congrArg sgnField h,
      by simpa [aField_requestWord] using congrArg aField h⟩
  · rintro ⟨rfl, rfl, rfl⟩; rfl

/-! The rows of R62 -/

/-- A row's match value is its operation code above 36 zeros. -/
theorem rowMatch_eq (i : Instr) : TableRow.rowMatch i = requestWord i.op 0#4 0#32 := by
  cases i <;> simp only [TableRow.rowMatch, Instr.op] <;> decide

/-- Among the instructions that carry the word's own fields, the masked word selects the one it decodes to. -/
theorem masked_eq_rowMatch_iff {w : RequestWord} {i : Instr} (hs : i.sgn = sgnField w) (ha : i.a = aField w) :
    w &&& 0xF000000000#40 = TableRow.rowMatch i ↔ decode w = i := by
  rw [decode_eq_iff, encode, hs, ha, rowMatch_eq]
  conv_lhs => rw [← requestWord_fields w, TableRow.mask_requestWord, requestWord_inj]
  conv_rhs => rw [← requestWord_fields w, requestWord_inj]
  simp only [sgnField_requestWord, aField_requestWord, and_self, and_true]

/-! What the disassembler writes is assembled again (R70) -/

theorem assembleSign_toInt {m : Mnemonic} (sgn : SignSel) (h : m.takesSign = true) :
    assembleSign m (some sgn.toInt) = some sgn := by
  have hlo := BitVec.le_toInt sgn
  have hhi := BitVec.toInt_lt (x := sgn)
  rw [assembleSign, if_pos ⟨h, by omega, by omega⟩, BitVec.ofInt_toInt]

theorem assembleOperand_half {m : Mnemonic} (a : Bus) (h : m.digits = 4) :
    assembleOperand m (some (.hex (a.toNat % 2 ^ 16))) = some (.lit (clearUpper a)) := by
  have hlt : a.toNat % 2 ^ 16 < 16 ^ m.digits := by rw [h]; omega
  have hlow : BitVec.ofNat 32 (a.toNat % 2 ^ 16) = clearUpper a := by
    apply BitVec.eq_of_toNat_eq
    simp [clearUpper]
  rw [assembleOperand, if_pos ⟨by omega, hlt⟩, hlow]

theorem assembleOperand_single (a : Bus) : assembleOperand .s2h (some (.hex a.toNat)) = some (.lit a) := by
  have hlt : a.toNat < 16 ^ Mnemonic.s2h.digits := a.isLt
  rw [assembleOperand, if_pos ⟨by decide, hlt⟩, BitVec.ofNat_toNat, BitVec.setWidth_eq]

theorem assemble_op {m : Mnemonic} {x : Option AsmOperand} {n : Option Int} {o : OperandSource} {sgn : SignSel}
    (hx : assembleOperand m x = some o) (hn : assembleSign m n = some sgn) :
    assemble (.op m x n) = some ⟨m.op, sgn, o⟩ := by
  simp only [assemble, AsmLine.expand, assembleExpanded, hx, hn]

theorem assemble_req (op : OpCode) (sgn : SignSel) (a : Bus) :
    assemble (.req (requestWord op sgn a)) = some ⟨op, sgn, .lit a⟩ := by
  simp only [assemble, AsmLine.expand, assembleExpanded, opField_requestWord, sgnField_requestWord, aField_requestWord]

/-- The request a host presents for an instruction, its operand a literal (R60, R69). -/
def literalItem (i : Instr) : ProgramItem := ⟨i.op, i.sgn, .lit i.a⟩

/-- The line of an instruction says all of it but its ignored fields. -/
theorem assemble_lineOf (i : Instr) : assemble (lineOf i) = some (literalItem i.clearIgnored) := by
  cases i with
  | h2s _ a => exact assemble_op (assembleOperand_half a rfl) rfl
  | s2h _ a => exact assemble_op (assembleOperand_single a) rfl
  | frombits _ a => exact assemble_op (assembleOperand_half a rfl) rfl
  | isnan _ a => exact assemble_op (assembleOperand_half a rfl) rfl
  | isinf sgn a => exact assemble_op (assembleOperand_half a rfl) (assembleSign_toInt sgn rfl)
  | isfinite _ a => exact assemble_op (assembleOperand_half a rfl) rfl
  | isnormal _ a => exact assemble_op (assembleOperand_half a rfl) rfl
  | signbit _ a => exact assemble_op (assembleOperand_half a rfl) rfl
  | classify _ a => exact assemble_op (assembleOperand_half a rfl) rfl
  | nan _ _ => rfl
  | inf sgn _ => exact assemble_op (m := .inf) rfl (assembleSign_toInt sgn rfl)
  | reservedB sgn a => exact assemble_req 0xB#4 sgn a
  | reservedC sgn a => exact assemble_req 0xC#4 sgn a
  | reservedD sgn a => exact assemble_req 0xD#4 sgn a
  | reservedE sgn a => exact assemble_req 0xE#4 sgn a
  | reservedF sgn a => exact assemble_req 0xF#4 sgn a

theorem canonical_iff (i : Instr) : i.canonical = true ↔ i.clearIgnored = i := beq_iff_eq

end Sys2Proof.Machine

namespace Sys2Proof.Proofs.Encoding

open Sys2Proof.Machine

/-- Settles O1: the three fields of a request word are read back, and they are the instruction's. -/
theorem decodeOfEncode : Obligations.DecodeOfEncode := decode_encode

/-- Settles O2: the decoded instruction keeps the three fields, and they are the whole word. -/
theorem encodeOfDecode : Obligations.EncodeOfDecode := encode_decode

/-- Settles O3: one row at a time, the masked word against the row's match value. -/
theorem maskSelectsRow : Obligations.MaskSelectsRow := by
  intro w
  have row (i : Instr) (hs : i.sgn = sgnField w) (ha : i.a = aField w) := masked_eq_rowMatch_iff hs ha
  exact ⟨row (.h2s _ _) rfl rfl, row (.s2h _ _) rfl rfl, row (.frombits _ _) rfl rfl, row (.isnan _ _) rfl rfl,
    row (.isinf _ _) rfl rfl, row (.isfinite _ _) rfl rfl, row (.isnormal _ _) rfl rfl, row (.signbit _ _) rfl rfl,
    row (.classify _ _) rfl rfl, row (.nan _ _) rfl rfl, row (.inf _ _) rfl rfl, row (.reservedB _ _) rfl rfl,
    row (.reservedC _ _) rfl rfl, row (.reservedD _ _) rfl rfl, row (.reservedE _ _) rfl rfl, row (.reservedF _ _) rfl rfl⟩

/-- Settles O57: the line assembles to the instruction with its ignored fields cleared, which is the instruction itself exactly when the
comment is absent. -/
theorem disassembleThenAssemble : Obligations.DisassembleThenAssemble := by
  intro w
  refine ⟨_, _, _, assemble_lineOf (decode w), rfl, ?_⟩
  have hword : encode (decode w).clearIgnored = w ↔ (decode w).clearIgnored = decode w := by
    rw [eq_comm, ← decode_eq_iff, eq_comm]
  rw [disassemble, Bool.not_eq_false', canonical_iff, ← hword]
  rfl

/-- Settles O4: the fifteen words, decoded. -/
theorem sampleWordsDecode : Obligations.SampleWordsDecode := by
  unfold Obligations.SampleWordsDecode
  decide

end Sys2Proof.Proofs.Encoding
end

section
/-! PROOFS. The machine is `Exec` of `30_encoding.md` R61: one equation for every instruction, and from it what a step keeps, what a run
records, and what a response depends on. -/

namespace Sys2Proof.Machine

/-! `Exec` on the two kinds of operation code (R61, R67) -/

theorem blockExec_of_reserved (c : Config) {op : OpCode} (sgn : SignSel) (a : Bus) (h : 0xB ≤ op.toNat) :
    blockExec c op sgn a = .illegal := by
  unfold blockExec
  split
  case h_12 => rfl
  all_goals omega

theorem blockExec_of_legal (c : Config) {op : OpCode} (sgn : SignSel) (a : Bus) (h : op.toNat < 0xB) :
    ∃ y, blockExec c op sgn a = .legal y := by
  unfold blockExec
  generalize op.toNat = n at h
  interval_cases n <;> exact ⟨_, rfl⟩

theorem blockExec_ill_iff (c : Config) (op : OpCode) (sgn : SignSel) (a : Bus) :
    (blockExec c op sgn a).ill = 1#1 ↔ 0xB ≤ op.toNat := by
  obtain hlegal | hreserved := Nat.lt_or_ge op.toNat 0xB
  · obtain ⟨y, hy⟩ := blockExec_of_legal c sgn a hlegal
    rw [hy]
    exact iff_of_false (fun h => nomatch h) (Nat.not_le.mpr hlegal)
  · rw [blockExec_of_reserved c sgn a hreserved]
    exact iff_of_true rfl hreserved

/-- R66, R211: `Exec` answers zero where it raises `IllegalOp`. -/
theorem blockExec_y_of_ill {c : Config} {op : OpCode} {sgn : SignSel} {a : Bus} (h : (blockExec c op sgn a).ill = 1#1) :
    (blockExec c op sgn a).y = 0#32 := by
  rw [blockExec_of_reserved c sgn a ((blockExec_ill_iff c op sgn a).mp h)]
  rfl

/-! Every instruction in one equation -/

/-- `s` after the transaction `{op, sgn, a}`: the response of `Exec` on the output ports and in the record (R61, R69), and the mark of a
reserved code (R213). -/
def State.transacted (s : State) (op : OpCode) (sgn : SignSel) (a : Bus) : State :=
  { s with
    y := (blockExec s.cfg op sgn a).y, ill := (blockExec s.cfg op sgn a).ill
    responses := s.responses ++ [blockExec s.cfg op sgn a]
    runFault := if 0xB ≤ op.toNat then s.runFault.or (some (.illegalOp op)) else s.runFault }

theorem exec_eq_transacted (i : Instr) (s : State) : exec i s = .next (s.transacted i.op i.sgn i.a) := by
  cases i <;> rfl

section
variable (s : State) (op : OpCode) (sgn : SignSel) (a : Bus)

@[simp] theorem State.transacted_cfg : (s.transacted op sgn a).cfg = s.cfg := rfl
@[simp] theorem State.transacted_op : (s.transacted op sgn a).op = s.op := rfl
@[simp] theorem State.transacted_sgn : (s.transacted op sgn a).sgn = s.sgn := rfl
@[simp] theorem State.transacted_a : (s.transacted op sgn a).a = s.a := rfl
@[simp] theorem State.transacted_y : (s.transacted op sgn a).y = (blockExec s.cfg op sgn a).y := rfl
@[simp] theorem State.transacted_ill : (s.transacted op sgn a).ill = (blockExec s.cfg op sgn a).ill := rfl
@[simp] theorem State.transacted_pending : (s.transacted op sgn a).pending = s.pending := rfl
@[simp] theorem State.transacted_responses :
    (s.transacted op sgn a).responses = s.responses ++ [blockExec s.cfg op sgn a] := rfl

theorem State.transacted_responses_length : (s.transacted op sgn a).responses.length = s.responses.length + 1 :=
  List.length_append

theorem State.transacted_runFault_of_reserved (h : 0xB ≤ op.toNat) :
    (s.transacted op sgn a).runFault = s.runFault.or (some (.illegalOp op)) := if_pos h

theorem State.transacted_runFault_of_legal (h : op.toNat < 0xB) : (s.transacted op sgn a).runFault = s.runFault :=
  if_neg (Nat.not_le.mpr h)

end

theorem shown_exec (i : Instr) (s : State) : shown (exec i s) = some (blockExec s.cfg i.op i.sgn i.a) := by
  rw [exec_eq_transacted]
  rfl

/-! A step (R69) -/

theorem step_of_nil {s : State} (h : s.pending = []) : step s = .next s := by
  rw [step, h]

theorem step_of_resolve {s : State} {it : ProgramItem} {rest : Program} {a : Bus} (hp : s.pending = it :: rest)
    (ha : resolve s.responses it.operand = .ok a) :
    step s = exec (decode (requestWord it.op it.sgn a)) (s.present it.op it.sgn a rest) := by
  simp only [step, hp, ha]

theorem step_of_resolve_error {s : State} {it : ProgramItem} {rest : Program} {e : Fault} (hp : s.pending = it :: rest)
    (he : resolve s.responses it.operand = .error e) : step s = .fault e := by
  simp only [step, hp, he]

theorem exec_decode_requestWord (op : OpCode) (sgn : SignSel) (a : Bus) (s : State) :
    exec (decode (requestWord op sgn a)) s = .next (s.transacted op sgn a) := by
  rw [exec_eq_transacted, decode_requestWord, decodeFields_op, decodeFields_sgn, decodeFields_a]

/-- A step whose operand resolves is one transaction of the request. -/
theorem step_eq_transacted {s : State} {it : ProgramItem} {rest : Program} {a : Bus} (hp : s.pending = it :: rest)
    (ha : resolve s.responses it.operand = .ok a) :
    step s = .next ((s.present it.op it.sgn a rest).transacted it.op it.sgn a) := by
  rw [step_of_resolve hp ha, exec_decode_requestWord]

/-- A completed step is idle or one transaction. -/
theorem step_next_cases {s t : State} (h : step s = .next t) :
    t = s ∨ ∃ op sgn a rest, t = (s.present op sgn a rest).transacted op sgn a := by
  obtain ⟨-, rfl⟩ | ⟨it, rest, a, -, -, hexec⟩ := step_cases h
  · exact .inl rfl
  · rw [exec_decode_requestWord] at hexec
    cases hexec
    exact .inr ⟨_, _, _, _, rfl⟩

/-- What holds of a state, and of every state after it has presented and transacted a request, is kept by a step. -/
theorem step_keeps {P : State → Prop} {s t : State} (hs : P s)
    (htrans : ∀ op sgn a rest, P ((s.present op sgn a rest).transacted op sgn a)) (h : step s = .next t) : P t := by
  obtain rfl | ⟨op, sgn, a, rest, rfl⟩ := step_next_cases h
  · exact hs
  · exact htrans op sgn a rest

/-! The fault mark (R213) -/

theorem noIllegalResponse_transacted (s : State) (op : OpCode) (sgn : SignSel) (a : Bus) :
    (s.transacted op sgn a).noIllegalResponse = true ↔ s.noIllegalResponse = true ∧ op.toNat < 0xB := by
  rw [State.noIllegalResponse, State.transacted_responses, List.all_append, Bool.and_eq_true, List.all_cons, List.all_nil,
    Bool.and_true, bne_iff_ne, Ne, blockExec_ill_iff, Nat.not_le, State.noIllegalResponse]

theorem markAgrees_transacted {s : State} (h : s.MarkAgrees) (op : OpCode) (sgn : SignSel) (a : Bus) :
    (s.transacted op sgn a).MarkAgrees := by
  rw [State.MarkAgrees] at h ⊢
  rw [noIllegalResponse_transacted, ← h]
  obtain hlegal | hreserved := Nat.lt_or_ge op.toNat 0xB
  · rw [s.transacted_runFault_of_legal op sgn a hlegal, and_iff_left hlegal]
  · rw [s.transacted_runFault_of_reserved op sgn a hreserved, Option.or_eq_none_iff]
    exact iff_of_false (fun hm => nomatch hm.2) (fun hm => Nat.not_lt.mpr hreserved hm.2)

theorem markReserved_transacted {s : State} (h : s.MarkReserved) (op : OpCode) (sgn : SignSel) (a : Bus) :
    (s.transacted op sgn a).MarkReserved := by
  intro marked hm
  obtain hlegal | hreserved := Nat.lt_or_ge op.toNat 0xB
  · rw [s.transacted_runFault_of_legal op sgn a hlegal] at hm
    exact h marked hm
  · rw [s.transacted_runFault_of_reserved op sgn a hreserved, Option.or_eq_some_iff] at hm
    obtain hold | ⟨-, hnew⟩ := hm
    · exact h marked hold
    · cases hnew
      exact hreserved

/-! A run from a list of requests -/

theorem run_literalProgram (ws : List RequestWord) {s : State} (hp : s.pending = literalProgram ws) :
    ∃ t : State, core.run ws.length s = .next t ∧ t.responses = s.responses ++ ws.map (blockExecWord s.cfg) ∧
      t.pending = [] := by
  induction ws generalizing s with
  | nil => exact ⟨s, rfl, (List.append_nil _).symm, hp⟩
  | cons w ws ih =>
    have hstep := step_eq_transacted hp (resolve_lit s.responses (aField w))
    obtain ⟨t, hrun, hresp, hend⟩ := ih (s := (s.present (opField w) (sgnField w) (aField w) (literalProgram ws)).transacted
      (opField w) (sgnField w) (aField w)) rfl
    refine ⟨t, (run_succ_of_next ws.length hstep).trans hrun, ?_, hend⟩
    rw [hresp, State.transacted_responses, List.append_assoc]
    rfl

/-- In a record without `IllegalOp` every response named by a well-formed request has a result. -/
theorem resolve_of_wellFormed {s : State} {it : ProgramItem} (hr : s.noIllegalResponse = true)
    (hw : it.wellFormedAfter s.responses.length = true) : ∃ a, resolve s.responses it.operand = .ok a := by
  obtain ⟨op, sgn, operand⟩ := it
  cases operand with
  | lit a => exact ⟨a, rfl⟩
  | result i =>
    have hi : i < s.responses.length := by
      simpa [ProgramItem.wellFormedAfter] using (Bool.and_eq_true_iff.mp hw).2
    have hlegal := List.all_eq_true.mp hr _ (List.getElem_mem hi)
    exact ⟨_, resolve_result_legal _ i _ (List.getElem?_eq_getElem hi) (bne_iff_ne.mp hlegal)⟩

theorem legalOp_of_wellFormedAfter {it : ProgramItem} {n : Nat} (h : it.wellFormedAfter n = true) : it.op.toNat < 0xB :=
  of_decide_eq_true (Bool.and_eq_true_iff.mp h).1

theorem run_wellFormedFrom (p : Program) {s : State} (hp : s.pending = p) (hr : s.noIllegalResponse = true)
    (hw : p.wellFormedFrom s.responses.length = true) :
    ∃ t : State, core.run p.length s = .next t ∧ t.responses.length = s.responses.length + p.length ∧
      t.noIllegalResponse = true ∧ t.runFault = s.runFault ∧ t.pending = [] := by
  induction p generalizing s with
  | nil => exact ⟨s, rfl, rfl, hr, rfl, hp⟩
  | cons it rest ih =>
    obtain ⟨hit, hrest⟩ := Bool.and_eq_true_iff.mp hw
    have hop := legalOp_of_wellFormedAfter hit
    obtain ⟨a, ha⟩ := resolve_of_wellFormed hr hit
    have hlen := State.transacted_responses_length (s.present it.op it.sgn a rest) it.op it.sgn a
    rw [State.present_responses] at hlen
    obtain ⟨t, hrun, hresp, hnone, hmark, hend⟩ := ih (s := (s.present it.op it.sgn a rest).transacted it.op it.sgn a) rfl
      ((noIllegalResponse_transacted _ _ _ _).mpr ⟨hr, hop⟩) (by rwa [hlen])
    refine ⟨t, (run_succ_of_next rest.length (step_eq_transacted hp ha)).trans hrun, ?_, hnone, ?_, hend⟩
    · rw [hresp, hlen, List.length_cons, Nat.add_assoc, Nat.add_comm 1]
    · rw [hmark, State.transacted_runFault_of_legal _ _ _ _ hop, State.present_runFault]

end Sys2Proof.Machine

namespace Sys2Proof.Proofs.Transactions

open Sys2Proof.Machine

/-- Settles O12: a transaction leaves the request on the input ports and its `Exec` on the output ports. -/
theorem portsAgreeKept : Obligations.PortsAgreeKept :=
  fun _ _ hs h => step_keeps hs (fun _ _ _ _ => rfl) h

/-- Settles O13: a transaction marks the run exactly when it records `ill = 1`, and then by a reserved code. -/
theorem markKept : Obligations.MarkKept := by
  intro s t hs hres h
  exact ⟨step_keeps hs (fun op sgn a rest => markAgrees_transacted (s := s.present op sgn a rest) hs op sgn a) h,
    step_keeps hres (fun op sgn a rest => markReserved_transacted (s := s.present op sgn a rest) hres op sgn a) h⟩

/-- Settles O9: the step is one transaction, whose response is `Exec`. -/
theorem stepIsExec : Obligations.StepIsExec :=
  fun _ _ _ _ hp ha => ⟨_, step_eq_transacted hp ha, rfl, rfl, rfl, rfl, rfl, rfl, rfl⟩

/-- Settles O10: by induction on the list of words. -/
theorem runIsListOfExec : Obligations.RunIsListOfExec :=
  fun s ws => run_literalProgram ws (s := s.loadProgram (literalProgram ws)) rfl

/-- Settles O11: by induction on the program, the record holding a legal response for each request presented. -/
theorem wellFormedProgramCompletes : Obligations.WellFormedProgramCompletes := by
  intro s p hw
  obtain ⟨t, hrun, hlen, hnone, hmark, hend⟩ := run_wellFormedFrom p (s := s.loadProgram p) rfl rfl hw
  exact ⟨t, hrun, hlen.trans (Nat.zero_add _), hnone, hmark, hend⟩

/-- Settles O14: the response added to the record is `Exec`, which answers zero with `ill = 1`. -/
theorem illegalIsZeroKept : Obligations.IllegalIsZeroKept := by
  intro s t hs h
  have hrecord := hs.2
  refine step_keeps hs (fun op sgn a rest => ⟨blockExec_y_of_ill, fun r hr => ?_⟩) h
  obtain hold | hnew := List.mem_append.mp hr
  · exact hrecord r hold
  · rw [List.mem_singleton.mp hnew]
    exact blockExec_y_of_ill

/-- Settles O16: a transaction writes no parameter. -/
theorem stepKeepsParameters : Obligations.StepKeepsParameters :=
  fun s _ h => step_keeps (P := fun t => t.cfg = s.cfg) rfl (fun _ _ _ _ => rfl) h

/-- Settles O18: what an instruction shows is `Exec` of the parameters and its own fields, and no instruction writes the parameters. -/
theorem responseIgnoresHistory : Obligations.ResponseIgnoresHistory := by
  intro i s
  have same (s' : State) (hc : s'.cfg = s.cfg) : shown (exec i s') = shown (exec i s) := by
    rw [shown_exec, shown_exec, hc]
  refine ⟨same, fun j t h => same t ?_⟩
  rw [exec_eq_transacted] at h
  cases h
  rfl

/-- Settles O5: the arm of `step` for a resolved operand. -/
theorem stepRunsDecodedRequest : Obligations.StepRunsDecodedRequest :=
  fun _ _ _ _ hp ha => step_of_resolve hp ha

/-- Settles O6: the fields of the word are the request placed in front, and they make the word again. -/
theorem fetchWordRunsNext : Obligations.FetchWordRunsNext := by
  intro s w
  have hw : BitVec.ofNat 40 (w.toNat % 2 ^ 40) = w := by rw [Nat.mod_eq_of_lt w.isLt, BitVec.ofNat_toNat, BitVec.setWidth_eq]
  have hp := s.withFetchWord_pending 40 w.toNat
  rw [hw] at hp
  have hstep := step_of_resolve hp (resolve_lit _ (aField w))
  rw [requestWord_fields] at hstep
  exact hstep

/-- Settles O7: the arm of `step` for an empty list of requests. -/
theorem stepWithoutRequestIdles : Obligations.StepWithoutRequestIdles :=
  fun _ => step_of_nil

/-- Settles O8: the three answers of `resolve` to `$i`. -/
theorem resultOperands : Obligations.ResultOperands := by
  intro s op sgn i rest hp
  refine ⟨fun y hy => ?_, fun y hy => ?_, fun hi => ?_⟩
  · exact step_of_resolve (it := ⟨op, sgn, .result i⟩) hp (resolve_result_legal _ i ⟨0#1, y⟩ hy (show 0#1 ≠ 1#1 by decide))
  · exact step_of_resolve_error hp (resolve_result_illegal _ i _ hy rfl)
  · exact step_of_resolve_error hp (resolve_result_missing _ i (List.getElem?_eq_none hi))

/-- Settles O15: reset field by field; nothing is recorded, so the invariants of the record have nothing to meet. -/
theorem resetIsUnusedBlock : Obligations.ResetIsUnusedBlock := by
  have hports : State.reset.PortsAgree := by unfold State.PortsAgree; decide
  have hlegal : State.reset.cfg.legal = true := by decide
  have hreserved : State.reset.MarkReserved := fun _ h => nomatch h
  exact ⟨rfl, hlegal, rfl, rfl, rfl, hports, iff_of_true rfl rfl, hreserved, fun _ => rfl, List.forall_mem_nil _⟩

/-- Settles O17: the five reserved arms of `exec`, and `Exec` of a legal code. -/
theorem onlyReservedCodesAreIllegal : Obligations.OnlyReservedCodesAreIllegal := by
  refine ⟨fun sgn a s => ?_, fun i s hi => ?_⟩
  · have marked (op : OpCode) : s.raiseIllegalOp op = s.answeredIllegal op := by
      cases hm : s.runFault with
      | none => simp only [State.raiseIllegalOp, State.answeredIllegal, hm, Option.none_or]
      | some e => simp only [State.raiseIllegalOp, State.answeredIllegal, hm, Option.some_or]
    simp only [← marked]
    exact ⟨rfl, rfl, rfl, rfl, rfl⟩
  · obtain ⟨y, hy⟩ := blockExec_of_legal s.cfg i.sgn i.a hi
    refine ⟨y, ?_⟩
    rw [Answers, exec_eq_transacted, State.transacted, if_neg (Nat.not_le.mpr hi), hy]
    rfl

end Sys2Proof.Proofs.Transactions
end

section
/-! PROOFS. What the results of the half operations are made of: their widths (`30_encoding.md` R66), the fields they read (R64, R65), the
classes of `42_classifier.md` R155 to R157, and the constants of `43_constructors.md` R172 to R174. -/

namespace Sys2Proof.Machine

/-! The two instructions whose answer is not stated yet -/

theorem answers_classify (sgn : SignSel) (a : Bus) (s : State) :
    Answers (.classify sgn a) s (classResult (classBits (halfOperand a))) := rfl

theorem answers_nan (sgn : SignSel) (a : Bus) (s : State) : Answers (.nan sgn a) s (halfResult s.cfg.canonNan) := rfl

/-! The widths of the results (R66) -/

theorem halfResult_lt (r : Half) : (halfResult r).toNat < 2 ^ 16 := by
  rw [halfResult_toNat]
  exact r.isLt

theorem boolResult_lt (b : Bool) : (boolResult b).toNat < 2 := by
  rw [boolResult_toNat]
  exact b.toNat_lt

theorem classResult_lt (c : BitVec 7) : (classResult c).toNat < 2 ^ 7 := by
  rw [classResult_toNat]
  exact c.isLt

/-- Instructions that answer the same result show the same response. -/
theorem shown_congr {i j : Instr} {s : State} {y y' : Bus} (hi : Answers i s y) (hj : Answers j s y') (h : y = y') :
    shown (exec i s) = shown (exec j s) := by
  rw [Answers] at hi hj
  rw [hi, hj, h]

/-! The remaining predicates as conditions on the fields (R151, R156) -/

theorem and_magnitudeMask_eq_zero_iff (p : Half) : p &&& 0x7FFF#16 = 0#16 ↔ halfExp p = 0#5 ∧ halfSig p = 0#10 := by
  have zero : 0#16 = packHalf 0#1 0#5 0#10 := rfl
  rw [and_magnitudeMask, zero, packHalf_inj]
  simp

theorem isZero_iff (p : Half) : isZero p = true ↔ halfExp p = 0#5 ∧ halfSig p = 0#10 := by
  rw [isZero, beq_iff_eq, and_magnitudeMask_eq_zero_iff]

theorem isSubnormal_iff (p : Half) : isSubnormal p = true ↔ halfExp p = 0#5 ∧ halfSig p ≠ 0#10 := by
  rw [isSubnormal, Bool.and_eq_true, beq_iff_eq, bne_iff_ne, and_expMask_eq_zero_iff, Ne, and_sigMask_eq_zero_iff]

theorem eq_infinity_iff (p : Half) : p = 0x7C00#16 ∨ p = 0xFC00#16 ↔ halfExp p = 31#5 ∧ halfSig p = 0#10 := by
  constructor
  · rintro (rfl | rfl)
    · exact ⟨rfl, rfl⟩
    · exact ⟨rfl, rfl⟩
  · rintro ⟨he, hm⟩
    have hsign : halfSign p = 0#1 ∨ halfSign p = 1#1 := by bv_omega
    rw [← packHalf_fields p, he, hm]
    obtain hs | hs := hsign
    · exact .inl (by rw [hs]; rfl)
    · exact .inr (by rw [hs]; rfl)

theorem isInf_zero_iff (p : Half) : isInf p 0#4 = true ↔ halfExp p = 31#5 ∧ halfSig p = 0#10 :=
  (isInf_of_zero p rfl).trans (eq_infinity_iff p)

/-- Under every selector an infinity has the fields of one. -/
theorem infinity_of_isInf {p : Half} {sgn : SignSel} (h : isInf p sgn = true) : halfExp p = 31#5 ∧ halfSig p = 0#10 := by
  rw [← eq_infinity_iff]
  obtain hneg | hzero | hpos := lt_trichotomy sgn.toInt 0
  · exact .inr ((isInf_of_neg p hneg).mp h)
  · exact (isInf_of_zero p hzero).mp h
  · exact .inl ((isInf_of_pos p hpos).mp h)

/-! The five classes (R157), each of which decides every predicate -/

/-- The class predicates of a half, and `isFinite`, as decisions on its exponent and significand fields. -/
theorem class_predicates (p : Half) :
    isNaN p = decide (halfExp p = 31#5 ∧ halfSig p ≠ 0#10) ∧ isInf p 0#4 = decide (halfExp p = 31#5 ∧ halfSig p = 0#10) ∧
      isZero p = decide (halfExp p = 0#5 ∧ halfSig p = 0#10) ∧
      isSubnormal p = decide (halfExp p = 0#5 ∧ halfSig p ≠ 0#10) ∧
      isNormal p = decide (halfExp p ≠ 31#5 ∧ halfExp p ≠ 0#5) ∧ isFinite p = decide (halfExp p ≠ 31#5) := by
  have decided {b : Bool} {P : Prop} [Decidable P] (h : b = true ↔ P) : b = decide P :=
    Bool.eq_iff_iff.mpr (h.trans decide_eq_true_iff.symm)
  exact ⟨decided (isNaN_iff p), decided (isInf_zero_iff p), decided (isZero_iff p), decided (isSubnormal_iff p),
    decided (isNormal_iff p), decided (isFinite_iff p)⟩

/-- What CLASS answers for a half, by its class and its sign (R155, R157). -/
theorem classResult_classBits (p : Half) :
    classResult (classBits p) =
      (if halfExp p = 31#5 then (if halfSig p = 0#10 then 0x02#32 else 0x01#32)
        else if halfExp p = 0#5 then (if halfSig p = 0#10 then 0x24#32 else 0x44#32)
        else 0x0C#32) + (if p.getLsbD 15 then 0x10#32 else 0x00#32) := by
  obtain ⟨hnan, hinf, hzero, hsub, hnormal, hfinite⟩ := class_predicates p
  rw [classBits, hnan, hinf, hzero, hsub, hnormal, hfinite, signbit_eq_getLsbD]
  by_cases h31 : halfExp p = 31#5
  · by_cases hm : halfSig p = 0#10 <;> cases p.getLsbD 15 <;> simp [h31, hm] <;> rfl
  · by_cases h0 : halfExp p = 0#5
    · by_cases hm : halfSig p = 0#10 <;> cases p.getLsbD 15 <;> simp [h0, hm] <;> rfl
    · cases p.getLsbD 15 <;> simp [h31, h0] <;> rfl

theorem class_count (p : Half) : [isNaN p, isInf p 0#4, isZero p, isSubnormal p, isNormal p].count true = 1 := by
  obtain ⟨hnan, hinf, hzero, hsub, hnormal, -⟩ := class_predicates p
  rw [hnan, hinf, hzero, hsub, hnormal]
  by_cases h31 : halfExp p = 31#5
  · by_cases hm : halfSig p = 0#10 <;> simp [h31, hm]
  · by_cases h0 : halfExp p = 0#5
    · by_cases hm : halfSig p = 0#10 <;> simp [h0, hm]
    · simp [h31, h0]

theorem isFinite_eq_or (p : Half) : isFinite p = (isZero p || isSubnormal p || isNormal p) := by
  obtain ⟨-, -, hzero, hsub, hnormal, hfinite⟩ := class_predicates p
  rw [hzero, hsub, hnormal, hfinite]
  by_cases h0 : halfExp p = 0#5
  · by_cases hm : halfSig p = 0#10 <;> simp [h0, hm]
  · simp [h0]

/-- Flipping bit 15 flips the sign field and keeps the two others. -/
theorem xor_signMask (p : Half) : p ^^^ 0x8000#16 = packHalf (~~~halfSign p) (halfExp p) (halfSig p) := by
  have mask : 0x8000#16 = packHalf 1#1 0#5 0#10 := rfl
  have flip : halfSign p ^^^ 1#1 = ~~~halfSign p := BitVec.xor_allOnes
  conv_lhs => rw [← packHalf_fields p, mask, packHalf, packHalf, BitVec.xor_append, BitVec.xor_append, BitVec.xor_zero,
    BitVec.xor_zero, flip]
  rfl

/-! The canonical NaN (R9, R172) and the infinities (R173) -/

theorem canonNan_fields {c : Config} (h : c.legal = true) : halfExp c.canonNan = 31#5 ∧ halfSig c.canonNan ≠ 0#10 := by
  rwa [Config.legal, Bool.and_eq_true, beq_iff_eq, bne_iff_ne] at h

theorem infPattern_of_neg {sgn : SignSel} (h : sgn.toInt < 0) : infPattern sgn = 0xFC00#16 :=
  if_pos ((sgnNeg_iff sgn).mpr h)

theorem infPattern_of_nonneg {sgn : SignSel} (h : 0 ≤ sgn.toInt) : infPattern sgn = 0x7C00#16 :=
  if_neg (fun hn => Int.not_lt.mpr h ((sgnNeg_iff sgn).mp hn))

theorem infPattern_fields (sgn : SignSel) : halfExp (infPattern sgn) = 31#5 ∧ halfSig (infPattern sgn) = 0#10 := by
  rw [← eq_infinity_iff]
  obtain hneg | hpos := lt_or_ge sgn.toInt 0
  · exact .inr (infPattern_of_neg hneg)
  · exact .inl (infPattern_of_nonneg hpos)

/-- A pattern with the top exponent field is neither finite nor normal. -/
theorem not_finite_not_normal {p : Half} (h : halfExp p = 31#5) : isFinite p = false ∧ isNormal p = false :=
  ⟨Bool.eq_false_iff.mpr fun hf => (isFinite_iff p).mp hf h,
    Bool.eq_false_iff.mpr fun hn => ((isNormal_iff p).mp hn).1 h⟩

theorem isInf_infPattern_self (sgn : SignSel) : isInf (infPattern sgn) sgn = true := by
  obtain hneg | hzero | hpos := lt_trichotomy sgn.toInt 0
  · exact (isInf_of_neg _ hneg).mpr (infPattern_of_neg hneg)
  · exact (isInf_of_zero _ hzero).mpr (.inl (infPattern_of_nonneg hzero.ge))
  · exact (isInf_of_pos _ hpos).mpr (infPattern_of_nonneg hpos.le)

theorem isInf_infPattern_opposite {sgn sgn' : SignSel}
    (h : (0 < sgn.toInt ∧ sgn'.toInt < 0) ∨ (sgn.toInt < 0 ∧ 0 < sgn'.toInt)) : isInf (infPattern sgn) sgn' = false := by
  rw [Bool.eq_false_iff]
  obtain ⟨hpos, hneg⟩ | ⟨hneg, hpos⟩ := h
  · rw [Ne, isInf_of_neg _ hneg, infPattern_of_nonneg hpos.le]; decide
  · rw [Ne, isInf_of_pos _ hpos, infPattern_of_neg hneg]; decide

theorem isInf_infPattern_zero_iff (sgn : SignSel) : isInf (infPattern 0#4) sgn = true ↔ 0 ≤ sgn.toInt := by
  have hpattern : infPattern 0#4 = 0x7C00#16 := rfl
  obtain hneg | hzero | hpos := lt_trichotomy sgn.toInt 0
  · rw [isInf_of_neg _ hneg, hpattern]
    exact iff_of_false (by decide) (Int.not_le.mpr hneg)
  · rw [isInf_of_zero _ hzero]
    exact iff_of_true (.inl rfl) hzero.ge
  · rw [isInf_of_pos _ hpos]
    exact iff_of_true rfl hpos.le

theorem sgnZero_iff (sgn : SignSel) : sgnZero sgn = true ↔ sgn.toInt = 0 := by
  rw [sgnZero, beq_iff_eq, ← BitVec.toInt_inj, BitVec.toInt_zero]

end Sys2Proof.Machine

namespace Sys2Proof.Proofs.Results

open Sys2Proof.Machine

/-- Settles O20: the result of each operation code of the table of R61 is a half, a Boolean or a class result. -/
theorem resultsAreZeroExtended : Obligations.ResultsAreZeroExtended := by
  intro i s t h
  rw [exec_eq_transacted] at h
  cases h
  rw [State.transacted_y]
  refine ⟨fun hop => ?_, fun hop => ?_, fun hop => ?_, fun hop => ?_⟩
  · simp only [List.mem_cons, List.not_mem_nil, or_false] at hop
    obtain hop | hop | hop | hop := hop <;> rw [hop] <;> exact halfResult_lt _
  · simp only [List.mem_cons, List.not_mem_nil, or_false] at hop
    obtain hop | hop | hop | hop | hop := hop <;> rw [hop] <;> exact boolResult_lt _
  · rw [hop]
    exact classResult_lt _
  · rw [blockExec_of_reserved _ _ _ hop]
    rfl

/-- Settles O19: each answer, written with the field its operation reads. -/
theorem ignoredFieldsAreIgnored : Obligations.IgnoredFieldsAreIgnored := by
  intro s sgn sgn' a a'
  refine ⟨fun h => ?_, rfl, rfl, fun h => ?_, rfl, rfl, rfl, rfl, rfl⟩
  · have hhalf : halfOperand a = halfOperand a' := h
    exact ⟨shown_congr (answers_h2s ..) (answers_h2s ..) (by rw [hhalf]),
      shown_congr (answers_frombits ..) (answers_frombits ..) (by rw [hhalf]),
      shown_congr (answers_isnan ..) (answers_isnan ..) (by rw [hhalf]),
      shown_congr (answers_isinf ..) (answers_isinf ..) (by rw [hhalf]),
      shown_congr (answers_isfinite ..) (answers_isfinite ..) (by rw [hhalf]),
      shown_congr (answers_isnormal ..) (answers_isnormal ..) (by rw [hhalf]),
      shown_congr (answers_signbit ..) (answers_signbit ..) (by rw [hhalf]),
      shown_congr (answers_classify ..) (answers_classify ..) (by rw [hhalf])⟩
  · have hneg : sgnNeg sgn = sgnNeg sgn' := h
    exact shown_congr (answers_inf ..) (answers_inf ..) (by rw [infPattern, infPattern, hneg])

/-- Settles O48: the class and the sign of `a[15:0]` (R155, R157). -/
theorem classAnswers : Obligations.ClassAnswers := by
  intro s sgn a
  refine ⟨decode_append 0x8#4 sgn a, ?_⟩
  have hbit : (halfOperand a).getLsbD 15 = a.getLsbD 15 := by simp [halfOperand]
  have hy := answers_classify sgn a s
  rwa [classResult_classBits, halfExp_halfOperand, halfSig_halfOperand, hbit] at hy

/-- Settles O49: the exponent and significand fields decide the class, and flipping bit 15 keeps both. -/
theorem classificationIsExclusive : Obligations.ClassificationIsExclusive := by
  intro p
  have hexp : halfExp (p ^^^ 0x8000#16) = halfExp p := by rw [xor_signMask, halfExp_packHalf]
  have hsig : halfSig (p ^^^ 0x8000#16) = halfSig p := by rw [xor_signMask, halfSig_packHalf]
  have hsign : halfSign (p ^^^ 0x8000#16) = ~~~halfSign p := by rw [xor_signMask, halfSign_packHalf]
  refine ⟨class_count p, isFinite_eq_or p, ?_, ?_, ?_, ?_, ?_, ?_⟩
  · rw [Bool.eq_iff_iff, isNaN_iff, isNaN_iff, hexp, hsig]
  · rw [Bool.eq_iff_iff, isInf_zero_iff, isInf_zero_iff, hexp, hsig]
  · rw [Bool.eq_iff_iff, isZero_iff, isZero_iff, hexp, hsig]
  · rw [Bool.eq_iff_iff, isSubnormal_iff, isSubnormal_iff, hexp, hsig]
  · rw [Bool.eq_iff_iff, isNormal_iff, isNormal_iff, hexp]
  · rw [Bool.eq_iff_iff, Bool.not_eq_true', Bool.eq_false_iff, Ne, signbit_iff, signbit_iff, hsign]
    bv_omega

/-- Settles O52: the fields of a legal CANON_NAN are those of a NaN. -/
theorem canonicalNanIsNaN : Obligations.CanonicalNanIsNaN := by
  intro c hc
  obtain ⟨he, hm⟩ := canonNan_fields hc
  obtain ⟨hfinite, hnormal⟩ := not_finite_not_normal he
  exact ⟨(isNaN_iff _).mpr ⟨he, hm⟩, hfinite, hnormal, fun sgn => Bool.eq_false_iff.mpr fun h => hm (infinity_of_isInf h).2⟩

/-- Settles O51: the parameter, extended by zeros (R172). -/
theorem nanAnswers : Obligations.NanAnswers := by
  intro s sgn a
  have hy := answers_nan sgn a s
  rw [halfResult_eq_append] at hy
  refine ⟨decode_append 0x9#4 sgn a, hy, fun hc => (isNaN_iff _).mpr (canonNan_fields hc), fun hc => ?_⟩
  rwa [hc] at hy

/-- Settles O54: the constructed infinity under its own, the zero and the opposite selector (R174). -/
theorem constructorsMeetPredicates : Obligations.ConstructorsMeetPredicates := by
  intro sgn sgn'
  obtain ⟨hfinite, hnormal⟩ := not_finite_not_normal (infPattern_fields sgn).1
  exact ⟨isInf_infPattern_self sgn, (isInf_zero_iff _).mpr (infPattern_fields sgn), isInf_infPattern_opposite,
    isInf_infPattern_zero_iff sgn', hfinite, hnormal⟩

/-- Settles O56: the sign bit, the zero pattern and the rest (R65). -/
theorem signSelectorTrichotomy : Obligations.SignSelectorTrichotomy :=
  fun sgn => ⟨sgnNeg_iff sgn, sgnZero_iff sgn, sgnPos_iff sgn⟩

end Sys2Proof.Proofs.Results
end

section
/-! PROOFS. What H2S answers as a whole (`40_half_to_single.md` section 3): the shape of its results, its collisions, and the number they
denote (R111, R112). -/

namespace Sys2Proof.Machine

/-! Fields of a packed single (R29) -/

theorem packSingle_inj {s s' : BitVec 1} {e e' : BitVec 8} {m m' : BitVec 23} :
    packSingle s e m = packSingle s' e' m' ↔ s = s' ∧ e = e' ∧ m = m' := by
  constructor
  · intro h
    exact ⟨by simpa [singleSign_packSingle] using congrArg singleSign h,
      by simpa [singleExp_packSingle] using congrArg singleExp h,
      by simpa [singleSig_packSingle] using congrArg singleSig h⟩
  · rintro ⟨rfl, rfl, rfl⟩; rfl

/-- The magnitude pattern is zero exactly when both of its fields are. -/
theorem magnitude_eq_zero_iff (f : Single) : f.extractLsb' 0 31 = 0#31 ↔ singleExp f = 0#8 ∧ singleSig f = 0#23 := by
  have he := singleExp_toNat f
  have hm := singleSig_toNat f
  rw [← BitVec.toNat_inj, ← BitVec.toNat_inj, ← BitVec.toNat_inj, he, hm, BitVec.extractLsb'_toNat]
  simp only [Nat.shiftRight_zero, BitVec.toNat_ofNat]
  omega

theorem append_zeros_eq_zero_iff (n : BitVec 10) : n ++ 0#13 = 0#23 ↔ n = 0#10 := by
  have hn := append_zeros_toNat n
  rw [← BitVec.toNat_inj, ← BitVec.toNat_inj, hn, BitVec.toNat_ofNat, BitVec.toNat_ofNat]
  omega

/-! The shape of a result (R111) -/

/-- The fraction of R107 ends in 13 zeros, the leading 1 of `m` standing at bit 9 or below. -/
theorem h2sSubnormal_eq_packSingle {m : BitVec 10} (s : BitVec 1) (hm : m ≠ 0#10) :
    h2sSubnormal s m = packSingle s (BitVec.ofNat 8 (103 + msb m)) (BitVec.ofNat 10 (m.toNat * 2 ^ (10 - msb m)) ++ 0#13) := by
  have hk := msb_lt_width hm
  have hshift : m.toNat * 2 ^ (23 - msb m) = m.toNat * 2 ^ (10 - msb m) * 2 ^ 13 := by
    rw [Nat.mul_assoc, ← Nat.pow_add]; congr 2; omega
  have hfrac : BitVec.ofNat 23 (m.toNat * 2 ^ (23 - msb m)) = BitVec.ofNat 10 (m.toNat * 2 ^ (10 - msb m)) ++ 0#13 := by
    apply BitVec.eq_of_toNat_eq
    rw [append_zeros_toNat, hshift, BitVec.toNat_ofNat, BitVec.toNat_ofNat]; omega
  rw [h2sSubnormal, Nat.shiftLeft_eq, hfrac]

/-- Every result is the sign, an exponent field and ten bits above 13 zeros; the exponent field tells infinities and NaNs, zeros, and
the other halves apart. -/
theorem h2s_shape (q : Bool) (h : Half) :
    ∃ (e : BitVec 8) (n : BitVec 10), h2s q h = packSingle (halfSign h) e (n ++ 0#13) ∧
      ((e = 255#8 ∧ halfExp h = 31#5 ∧ (n = 0#10 ↔ halfSig h = 0#10)) ∨
        (e = 0#8 ∧ n = 0#10 ∧ halfExp h = 0#5 ∧ halfSig h = 0#10) ∨
        (103 ≤ e.toNat ∧ e.toNat ≤ 142 ∧ halfExp h ≠ 31#5 ∧ ¬ (halfExp h = 0#5 ∧ halfSig h = 0#10))) := by
  by_cases h31 : halfExp h = 31#5
  · by_cases hm : halfSig h = 0#10
    · exact ⟨255#8, 0#10, h2s_of_infinity q h31 hm, .inl ⟨rfl, h31, iff_of_true rfl hm⟩⟩
    · refine ⟨255#8, if q then halfSig h ||| 0x200#10 else halfSig h,
        (h2s_of_nan q h31 hm).trans (h2sNaN_eq_packSingle ..), .inl ⟨rfl, h31, iff_of_false ?_ hm⟩⟩
      cases q with
      | false => exact hm
      | true => exact fun hz => hm (BitVec.or_eq_zero_iff.mp hz).1
  by_cases h0 : halfExp h = 0#5
  · by_cases hm : halfSig h = 0#10
    · exact ⟨0#8, 0#10, h2s_of_zero q h0 hm, .inr (.inl ⟨rfl, rfl, h0, hm⟩)⟩
    · have hk := msb_lt_width hm
      refine ⟨_, _, (h2s_of_subnormal q h0 hm).trans (h2sSubnormal_eq_packSingle _ hm),
        .inr (.inr ⟨?_, ?_, h31, fun hz => hm hz.2⟩)⟩
      · rw [BitVec.toNat_ofNat]; omega
      · rw [BitVec.toNat_ofNat]; omega
  · obtain ⟨hlo, hhi⟩ := (exp_ne_ends_iff _).mp ⟨h31, h0⟩
    refine ⟨_, _, h2s_of_normal q h0 h31, .inr (.inr ⟨?_, ?_, h31, fun hz => h0 hz.1⟩)⟩
    · rw [BitVec.toNat_ofNat]; omega
    · rw [BitVec.toNat_ofNat]; omega

/-! Collisions (R111) -/

theorem halfExp_quieted (h : Half) : halfExp (quieted h) = halfExp h := by
  rw [quieted, or_quietBit_eq_packHalf]
  split
  · rw [halfExp_packHalf]
  · rfl

theorem halfSig_quieted_of_nan {h : Half} (hn : isNaN h = true) : halfSig (quieted h) = halfSig h ||| 0x200#10 := by
  rw [quieted_of_nan hn, or_quietBit_eq_packHalf, halfSig_packHalf]

theorem isNaN_quieted (h : Half) : isNaN (quieted h) = isNaN h := by
  cases hn : isNaN h with
  | false => rw [quieted_of_ne_nan hn, hn]
  | true =>
    obtain ⟨he, hm⟩ := (isNaN_iff h).mp hn
    rw [isNaN_iff, halfExp_quieted, halfSig_quieted_of_nan hn]
    exact ⟨he, fun hz => hm (BitVec.or_eq_zero_iff.mp hz).1⟩

/-- Halves that quieting makes equal are equal, or two NaNs. -/
theorem quieted_inj_iff (h h' : Half) :
    quieted h = quieted h' ↔
      h = h' ∨ (isNaN h = true ∧ isNaN h' = true ∧ h ||| 0x0200#16 = h' ||| 0x0200#16) := by
  constructor
  · intro heq
    have hclass : isNaN h = isNaN h' := by rw [← isNaN_quieted h, heq, isNaN_quieted]
    cases hn : isNaN h with
    | false => exact .inl (by rwa [quieted_of_ne_nan hn, quieted_of_ne_nan (hclass ▸ hn)] at heq)
    | true => exact .inr ⟨rfl, hclass ▸ hn, by rwa [quieted_of_nan hn, quieted_of_nan (hclass ▸ hn)] at heq⟩
  · rintro (rfl | ⟨hn, hn', hor⟩)
    · rfl
    · rw [quieted_of_nan hn, quieted_of_nan hn', hor]

/-- Without the forced bit a NaN keeps its ten significand bits (R106). -/
theorem h2s_false_of_nan {h : Half} (hn : isNaN h = true) :
    h2s false h = packSingle (halfSign h) 0xFF#8 (halfSig h ++ 0#13) := by
  obtain ⟨he, hm⟩ := (isNaN_iff h).mp hn
  rw [h2s_of_nan false he hm, h2sNaN_eq_packSingle, if_neg Bool.false_ne_true]

theorem h2s_false_inj {h h' : Half} (heq : h2s false h = h2s false h') : h = h' := by
  have hquiet : quieted h = quieted h' := by rw [← s2h_h2s false h, heq, s2h_h2s]
  obtain rfl | ⟨hn, hn', -⟩ := (quieted_inj_iff h h').mp hquiet
  · rfl
  · rw [h2s_false_of_nan hn, h2s_false_of_nan hn', packSingle_inj, BitVec.append_left_inj] at heq
    obtain ⟨hs, -, hm⟩ := heq
    rw [← packHalf_fields h, ← packHalf_fields h', hs, hm, ((isNaN_iff h).mp hn).1, ((isNaN_iff h').mp hn').1]

/-- The forced bit is quieting before the conversion. -/
theorem h2s_true_eq (h : Half) : h2s true h = h2s false (quieted h) := by
  by_cases hn : isNaN h = true
  · obtain ⟨he, hm⟩ := (isNaN_iff h).mp hn
    have hsign : halfSign (quieted h) = halfSign h := by
      rw [quieted_of_nan hn, or_quietBit_eq_packHalf, halfSign_packHalf]
    rw [h2s_of_nan true he hm, h2sNaN_eq_packSingle, if_pos rfl, h2s_false_of_nan ((isNaN_quieted h).trans hn), hsign,
      halfSig_quieted_of_nan hn]
  · rw [quieted_of_ne_nan (Bool.eq_false_iff.mpr hn)]
    rw [isNaN_iff, not_and_not_right] at hn
    by_cases h31 : halfExp h = 31#5
    · rw [h2s_of_infinity _ h31 (hn h31), h2s_of_infinity _ h31 (hn h31)]
    · simp only [h2s, if_neg h31]

/-! The number denoted (R15, R112) -/

theorem halfValue_of_infinity {h : Half} (he : halfExp h = 31#5) (hm : halfSig h = 0#10) :
    halfValue h = .infinity (halfSign h == 1#1) := by
  rw [halfValue, if_pos he, if_pos hm]

theorem halfValue_of_nan {h : Half} (he : halfExp h = 31#5) (hm : halfSig h ≠ 0#10) : halfValue h = .nan := by
  rw [halfValue, if_pos he, if_neg hm]

theorem halfValue_of_finite {h : Half} (he : halfExp h ≠ 31#5) :
    halfValue h = .finite (halfSign h == 1#1) (halfMagnitude (halfExp h) (halfSig h)) := by
  rw [halfValue, if_neg he]

theorem halfValue_eq_nan_iff (h : Half) : halfValue h = .nan ↔ halfExp h = 31#5 ∧ halfSig h ≠ 0#10 := by
  rw [halfValue]
  split_ifs with he hm
  · simp [hm]
  · simp [he, hm]
  · simp [he]

theorem singleValue_packSingle_of_infinity (s : BitVec 1) : singleValue (packSingle s 255#8 0#23) = .infinity (s == 1#1) := by
  rw [singleValue, singleExp_packSingle, singleSig_packSingle, singleSign_packSingle, if_pos rfl, if_pos rfl]

theorem singleValue_packSingle_of_nan {m : BitVec 23} (s : BitVec 1) (hm : m ≠ 0#23) :
    singleValue (packSingle s 255#8 m) = .nan := by
  rw [singleValue, singleExp_packSingle, singleSig_packSingle, if_pos rfl, if_neg hm]

theorem singleValue_packSingle_of_finite {e : BitVec 8} (s : BitVec 1) (m : BitVec 23) (he : e ≠ 255#8) :
    singleValue (packSingle s e m) = .finite (s == 1#1) (singleMagnitude e m) := by
  rw [singleValue, singleExp_packSingle, singleSig_packSingle, singleSign_packSingle, if_neg he]

theorem singleMagnitude_zero : singleMagnitude 0#8 0#23 = halfMagnitude 0#5 0#10 := by
  simp [singleMagnitude, halfMagnitude]

/-- R105: 13 more significand bits, and the exponent less by as much. -/
theorem singleMagnitude_normal {e : BitVec 5} (m : BitVec 10) (h0 : e ≠ 0#5) :
    singleMagnitude (BitVec.ofNat 8 (e.toNat + 112)) (m ++ 0#13) = halfMagnitude e m := by
  have he := e.isLt
  have hexp : (BitVec.ofNat 8 (e.toNat + 112)).toNat = e.toNat + 112 := by rw [BitVec.toNat_ofNat]; omega
  have hne : BitVec.ofNat 8 (e.toNat + 112) ≠ 0#8 := by bv_omega
  have hsig : 8388608 + (m ++ 0#13).toNat = (1024 + m.toNat) * 2 ^ 13 := by rw [append_zeros_toNat]; omega
  have hpow : (2 : ℚ) ^ ((e.toNat : ℤ) - 25) = 2 ^ 13 * 2 ^ (((e.toNat + 112 : ℕ) : ℤ) - 150) := by
    rw [← zpow_natCast, ← zpow_add₀ two_ne_zero]; congr 1; push_cast; ring
  rw [singleMagnitude, halfMagnitude, if_neg hne, if_neg h0, hexp, hsig, hpow, Nat.cast_mul, Nat.cast_pow, Nat.cast_ofNat,
    mul_assoc]

/-- R107: the significand is shifted left by `23 - msb(m)`, and the exponent is less by as much. -/
theorem singleMagnitude_subnormal {m : BitVec 10} (hm : m ≠ 0#10) :
    singleMagnitude (BitVec.ofNat 8 (103 + msb m)) (BitVec.ofNat 23 (m.toNat <<< (23 - msb m))) = halfMagnitude 0#5 m := by
  have hk := msb_lt_width hm
  have hexp : (BitVec.ofNat 8 (103 + msb m)).toNat = 103 + msb m := by rw [BitVec.toNat_ofNat]; omega
  have hne : BitVec.ofNat 8 (103 + msb m) ≠ 0#8 := by bv_omega
  have hpow : (2 : ℚ) ^ (-24 : ℤ) = 2 ^ (23 - msb m) * 2 ^ (((103 + msb m : ℕ) : ℤ) - 150) := by
    rw [← zpow_natCast, ← zpow_add₀ two_ne_zero]; congr 1; omega
  rw [singleMagnitude, halfMagnitude, if_neg hne, if_pos rfl, hexp, h2sSubnormal_significand hm, hpow, Nat.cast_mul,
    Nat.cast_pow, Nat.cast_ofNat, mul_assoc]

theorem singleValue_h2s_of_finite {h : Half} (q : Bool) (h31 : halfExp h ≠ 31#5) : singleValue (h2s q h) = halfValue h := by
  rw [halfValue_of_finite h31]
  by_cases h0 : halfExp h = 0#5
  · by_cases hm : halfSig h = 0#10
    · rw [h2s_of_zero q h0 hm, h2sZero, singleValue_packSingle_of_finite _ _ (by decide), singleMagnitude_zero, h0, hm]
    · have hk := msb_lt_width hm
      have hne : BitVec.ofNat 8 (103 + msb (halfSig h)) ≠ 255#8 := by bv_omega
      rw [h2s_of_subnormal q h0 hm, h2sSubnormal, singleValue_packSingle_of_finite _ _ hne,
        singleMagnitude_subnormal hm, h0]
  · have hne : BitVec.ofNat 8 ((halfExp h).toNat + 112) ≠ 255#8 := by bv_omega
    rw [h2s_of_normal q h0 h31, h2sNormal, singleValue_packSingle_of_finite _ _ hne, singleMagnitude_normal _ h0]

theorem singleValue_h2s_of_infinity {h : Half} (q : Bool) (he : halfExp h = 31#5) (hm : halfSig h = 0#10) :
    singleValue (h2s q h) = halfValue h := by
  rw [halfValue_of_infinity he hm, h2s_of_infinity q he hm, h2sInfinity, singleValue_packSingle_of_infinity]

end Sys2Proof.Machine

namespace Sys2Proof.Proofs.HalfToSingleResults

open Sys2Proof.Machine

/-- Settles O27: the seven parts, read off the shape of the result. -/
theorem h2sShape : Obligations.H2sShape := by
  intro q h
  obtain ⟨e, n, hy, hcases⟩ := h2s_shape q h
  have hexp : (h2s q h).extractLsb' 23 8 = e := by rw [hy]; exact singleExp_packSingle ..
  have hsig : (h2s q h).extractLsb' 0 23 = n ++ 0#13 := by rw [hy]; exact singleSig_packSingle ..
  have hlow : (h2s q h).extractLsb' 0 13 = 0#13 := by rw [hy, packSingle_append, BitVec.extractLsb'_append_eq_right]
  have hmag := magnitude_eq_zero_iff (h2s q h)
  rw [singleExp, singleSig] at hmag
  refine ⟨singleSign_h2s q h, hlow, ?_, ?_, ?_, ?_, ?_⟩
  · rw [hexp]; bv_omega
  · rw [hexp, hsig, append_zeros_eq_zero_iff]; bv_omega
  · rw [hmag, hexp, hsig, append_zeros_eq_zero_iff, isZero_iff]; bv_omega
  · rw [hexp, Bool.eq_false_iff, Ne, isFinite_iff]; bv_omega
  · rw [hexp, hsig, Ne, append_zeros_eq_zero_iff, isNaN_iff]; bv_omega

/-- Settles O28: without the forced bit H2S loses nothing; with it, exactly what quieting loses. -/
theorem h2sCollisions : Obligations.H2sCollisions := by
  intro h h'
  refine ⟨⟨h2s_false_inj, congrArg _⟩, ?_⟩
  rw [h2s_true_eq, h2s_true_eq, ← quieted_inj_iff]
  exact ⟨h2s_false_inj, congrArg _⟩

/-- Settles O29: one class of half at a time (R103 to R107). -/
theorem h2sPreservesValue : Obligations.H2sPreservesValue := by
  intro q h
  constructor
  · intro hne
    by_cases he : halfExp h = 31#5
    · have hm : halfSig h = 0#10 := by_contra fun hm => hne (halfValue_of_nan he hm)
      exact singleValue_h2s_of_infinity q he hm
    · exact singleValue_h2s_of_finite q he
  · intro hnan
    obtain ⟨he, hm⟩ := (halfValue_eq_nan_iff h).mp hnan
    obtain ⟨e, n, hy, ⟨rfl, -, hn⟩ | ⟨-, -, he0, -⟩ | ⟨-, -, hne, -⟩⟩ := h2s_shape q h
    · rw [hy, singleSign_packSingle]
      exact ⟨singleValue_packSingle_of_nan _ (mt (append_zeros_eq_zero_iff n).mp (mt hn.mp hm)), rfl⟩
    · rw [he] at he0; exact absurd he0 (by decide)
    · exact absurd he hne

end Sys2Proof.Proofs.HalfToSingleResults
end

section
/-! PROOFS. What S2H does to the magnitude pattern (`41_single_to_half.md` section 3): one function of `g = f[30:0]`, monotone, so that the
threshold table of R132 is its values at the ends of each row; and from it the classes of `45_laws.md` R187. -/

namespace Sys2Proof.Machine

/-! Rounding (R128) as a function of the shifted number -/

/-- `c` shifted right by `n` and rounded (R127, R129). -/
def roundShift (c n : Nat) : Nat := c / 2 ^ n + roundUp c n

theorem roundShift_le (c n : Nat) : roundShift c n ≤ c / 2 ^ n + 1 := Nat.add_le_add_left (roundUp_le_one c n) _

theorem le_roundShift (c n : Nat) : c / 2 ^ n ≤ roundShift c n := Nat.le_add_right _ _

/-- The increment is 1 exactly when the discarded part is more than half of the last kept place, or exactly half with an odd kept
value (R128). -/
theorem roundUp_eq_one_iff (c : Nat) {n : Nat} (hn : 1 ≤ n) :
    roundUp c n = 1 ↔ 2 ^ n < 2 * (c % 2 ^ n) ∨ (2 * (c % 2 ^ n) = 2 ^ n ∧ c / 2 ^ n % 2 = 1) := by
  have hlower : c % 2 ^ (n - 1) < 2 ^ (n - 1) := Nat.mod_lt _ (Nat.two_pow_pos _)
  have hhalf : 2 ^ (n - 1) * 2 = 2 ^ n := Nat.two_pow_pred_mul_two hn
  have hiff : roundUp c n = 1 ↔ c / 2 ^ (n - 1) % 2 = 1 ∧ (c % 2 ^ (n - 1) ≠ 0 ∨ c / 2 ^ n % 2 = 1) := by
    rw [roundUp]; split <;> simp_all
  rw [hiff, mod_two_pow_eq_first_add_lower _ hn]
  obtain hfirst | hfirst := Nat.mod_two_eq_zero_or_one (c / 2 ^ (n - 1))
  · rw [hfirst]; omega
  · rw [hfirst]; omega

/-- Among numbers with one kept value a larger discarded part rounds up where a smaller one does. -/
theorem roundShift_mono {c c' n : Nat} (hn : 1 ≤ n) (h : c ≤ c') : roundShift c n ≤ roundShift c' n := by
  obtain hlt | heq := (Nat.div_le_div_right (c := 2 ^ n) h).lt_or_eq
  · exact (roundShift_le c n).trans (Nat.succ_le_of_lt hlt |>.trans (le_roundShift c' n))
  · have hmod : c % 2 ^ n ≤ c' % 2 ^ n := by
      have hc := Nat.div_add_mod c (2 ^ n)
      have hc' := Nat.div_add_mod c' (2 ^ n)
      rw [heq] at hc
      omega
    have hup := roundUp_eq_one_iff c hn
    have hup' := roundUp_eq_one_iff c' hn
    have hle := roundUp_le_one c n
    rw [heq] at hup
    rw [roundShift, roundShift, heq]
    omega

/-! The magnitude of a result, as a function of the magnitude pattern -/

/-- The magnitude pattern of `S2H(f)` for `g = f[30:0]`, `f` being no NaN: the rows of R120, without the sign. -/
def s2hMagnitude (g : Nat) : Nat :=
  if g / 2 ^ 23 ≤ 101 then 0
  else if g / 2 ^ 23 ≤ 112 then roundShift (0x800000 + g % 2 ^ 23) (126 - g / 2 ^ 23)
  else if g / 2 ^ 23 ≤ 142 then roundShift (g - 112 * 2 ^ 23) 13
  else 0x7C00

theorem s2hMagnitude_of_flush {g : Nat} (h : g / 2 ^ 23 ≤ 101) : s2hMagnitude g = 0 := if_pos h

theorem s2hMagnitude_of_underflow {g : Nat} (hlo : 102 ≤ g / 2 ^ 23) (hhi : g / 2 ^ 23 ≤ 112) :
    s2hMagnitude g = roundShift (0x800000 + g % 2 ^ 23) (126 - g / 2 ^ 23) := by
  rw [s2hMagnitude, if_neg (by omega), if_pos hhi]

theorem s2hMagnitude_of_normal {g : Nat} (hlo : 113 ≤ g / 2 ^ 23) (hhi : g / 2 ^ 23 ≤ 142) :
    s2hMagnitude g = roundShift (g - 112 * 2 ^ 23) 13 := by
  rw [s2hMagnitude, if_neg (by omega), if_neg (by omega), if_pos hhi]

theorem s2hMagnitude_of_overflow {g : Nat} (h : 143 ≤ g / 2 ^ 23) : s2hMagnitude g = 0x7C00 := by
  rw [s2hMagnitude, if_neg (by omega), if_neg (by omega), if_neg (by omega)]

/-- Whole multiples of the last kept place go through the rounding. -/
theorem roundShift_add_mul (k c : Nat) {n : Nat} (hn : 1 ≤ n) : roundShift (k * 2 * 2 ^ n + c) n = k * 2 + roundShift c n := by
  have hdiv : (k * 2 * 2 ^ n + c) / 2 ^ n = k * 2 + c / 2 ^ n := by
    rw [Nat.add_comm, Nat.add_mul_div_right _ _ (Nat.two_pow_pos n), Nat.add_comm]
  have hup : roundUp (k * 2 * 2 ^ n + c) n = 1 ↔ roundUp c n = 1 := by
    rw [roundUp_eq_one_iff _ hn, roundUp_eq_one_iff _ hn, hdiv, Nat.mul_add_mod', Nat.mul_add_mod']
  have hle := roundUp_le_one (k * 2 * 2 ^ n + c) n
  have hle' := roundUp_le_one c n
  rw [roundShift, roundShift, hdiv]
  omega

/-- S2H on a single that is no NaN: the sign is apart, and the magnitude is a function of the magnitude pattern. -/
theorem s2h_magnitude {f : Single} (h : f.toNat % 2 ^ 31 ≤ 0x7F800000) :
    (s2h f).toNat % 2 ^ 15 = s2hMagnitude (f.toNat % 2 ^ 31) := by
  have he : (singleExp f).toNat = f.toNat % 2 ^ 31 / 2 ^ 23 := by rw [singleExp_toNat]; omega
  have hm : (singleSig f).toNat = f.toNat % 2 ^ 31 % 2 ^ 23 := by rw [singleSig_toNat]; omega
  obtain hflush | ⟨hlo, hhi⟩ | ⟨hlo, hhi⟩ | ⟨hlo, hhi⟩ | hones : (singleExp f).toNat ≤ 101 ∨
      (102 ≤ (singleExp f).toNat ∧ (singleExp f).toNat ≤ 112) ∨
      (113 ≤ (singleExp f).toNat ∧ (singleExp f).toNat ≤ 142) ∨
      (143 ≤ (singleExp f).toNat ∧ (singleExp f).toNat ≤ 254) ∨ singleExp f = 255#8 := by bv_omega
  · rw [s2h_of_flush hflush, s2hZero_toNat, Nat.shiftLeft_eq, Nat.mul_mod_left, s2hMagnitude_of_flush (he ▸ hflush)]
  · have hsum := underflow_sum_le (sh := 126 - (singleExp f).toNat) (singleSig f) (by omega) (by omega)
    rw [s2h_of_underflow hlo hhi, s2hUnderflow_toNat _ _ hsum, s2hMagnitude_of_underflow (he ▸ hlo) (he ▸ hhi), roundShift,
      ← he, ← hm]
    exact (Nat.mul_add_mod' _ (2 ^ 15) _).trans (Nat.mod_eq_of_lt (hsum.trans_lt (by decide)))
  · have ht : targetExp (singleExp f) = ((singleExp f).toNat - 112 : Nat) := by rw [targetExp]; omega
    have hg : f.toNat % 2 ^ 31 - 112 * 2 ^ 23 =
        ((singleExp f).toNat - 112) * 2 ^ 9 * 2 * 2 ^ 13 + (singleSig f).toNat := by omega
    have hround := roundShift_add_mul (((singleExp f).toNat - 112) * 2 ^ 9) (singleSig f).toNat (n := 13) (by decide)
    have hfm := (singleSig f).isLt
    have hinc := roundUp_le_one (singleSig f).toNat 13
    rw [s2h_of_normal hlo hhi, ht, s2hNormal_toNat _ _ (by omega), s2hMagnitude_of_normal (he ▸ hlo) (he ▸ hhi), hg, hround,
      roundShift]
    omega
  · rw [s2h_of_overflow hlo hhi, s2hInfinity_magnitude, s2hMagnitude_of_overflow (he ▸ hlo)]
  · have hsig : singleSig f = 0#23 := by
      by_contra hne
      exact absurd ((single_isNaN_iff f).mp ⟨hones, hne⟩) (Nat.not_lt.mpr h)
    have hexp : 143 ≤ f.toNat % 2 ^ 31 / 2 ^ 23 := by rw [← he, hones]; decide
    rw [s2h_of_infinity hones hsig, s2hInfinity_magnitude, s2hMagnitude_of_overflow hexp]

/-! Monotonicity (R132) -/

/-- From the largest fraction of an exponent field to the smallest of the next. -/
theorem s2hMagnitude_le_next_exponent :
    ∀ e < 143, s2hMagnitude (e * 2 ^ 23 + (2 ^ 23 - 1)) ≤ s2hMagnitude ((e + 1) * 2 ^ 23) := by
  decide

theorem s2hMagnitude_le_succ (g : Nat) : s2hMagnitude g ≤ s2hMagnitude (g + 1) := by
  by_cases hlast : g % 2 ^ 23 = 2 ^ 23 - 1
  · by_cases hsmall : g / 2 ^ 23 < 143
    · have hg : g / 2 ^ 23 * 2 ^ 23 + (2 ^ 23 - 1) = g := by omega
      have hsucc : (g / 2 ^ 23 + 1) * 2 ^ 23 = g + 1 := by omega
      have hends := s2hMagnitude_le_next_exponent (g / 2 ^ 23) hsmall
      rwa [hg, hsucc] at hends
    · rw [s2hMagnitude_of_overflow (by omega), s2hMagnitude_of_overflow (by omega)]
  · have hexp : (g + 1) / 2 ^ 23 = g / 2 ^ 23 := by omega
    rw [s2hMagnitude, s2hMagnitude, hexp]
    split_ifs with hflush hunder hnormal
    · rfl
    · exact roundShift_mono (by omega) (by omega)
    · exact roundShift_mono (by decide) (by omega)
    · rfl

theorem s2hMagnitude_mono : Monotone s2hMagnitude := monotone_nat_of_le_succ s2hMagnitude_le_succ

/-- Between two patterns of one magnitude every pattern has it. -/
theorem s2hMagnitude_eq_of_ends {lo hi g r : Nat} (hlo : s2hMagnitude lo = r) (hhi : s2hMagnitude hi = r) (h : lo ≤ g)
    (h' : g ≤ hi) : s2hMagnitude g = r :=
  le_antisymm (hhi ▸ s2hMagnitude_mono h') (hlo ▸ s2hMagnitude_mono h)

/-! The two ends of the finite nonzero results (R132) -/

theorem s2hMagnitude_eq_zero_iff (g : Nat) : s2hMagnitude g = 0 ↔ g ≤ 0x33000000 := by
  constructor
  · intro h
    by_contra hlt
    have hone : s2hMagnitude 0x33000001 = 1 := by decide
    have hmono := s2hMagnitude_mono (show 0x33000001 ≤ g by omega)
    omega
  · exact s2hMagnitude_eq_of_ends (lo := 0) (by decide) (by decide) (Nat.zero_le g)

theorem s2hMagnitude_le_infinity (g : Nat) : s2hMagnitude g ≤ 0x7C00 := by
  obtain hle | hgt := le_or_gt g 0x7F800000
  · have hmono := s2hMagnitude_mono hle
    have htop : s2hMagnitude 0x7F800000 = 0x7C00 := by decide
    omega
  · exact (s2hMagnitude_of_overflow (by omega)).le

theorem s2hMagnitude_eq_infinity_iff (g : Nat) : s2hMagnitude g = 0x7C00 ↔ 0x477FF000 ≤ g := by
  constructor
  · intro h
    by_contra hlt
    have hlast : s2hMagnitude 0x477FEFFF = 0x7BFF := by decide
    have hmono := s2hMagnitude_mono (show g ≤ 0x477FEFFF by omega)
    omega
  · intro h
    have hfirst : s2hMagnitude 0x477FF000 = 0x7C00 := by decide
    exact le_antisymm (s2hMagnitude_le_infinity g) (hfirst ▸ s2hMagnitude_mono h)

/-! The classes of a half by its magnitude pattern (R28), and of what S2H answers -/

theorem half_isInf_iff (h : Half) : isInf h 0#4 = true ↔ h.toNat % 2 ^ 15 = 0x7C00 := by
  have he := halfExp_toNat h
  have hm := halfSig_toNat h
  rw [isInf_zero_iff, ← BitVec.toNat_inj, ← BitVec.toNat_inj, he, hm, BitVec.toNat_ofNat, BitVec.toNat_ofNat]
  omega

theorem half_isZero_iff (h : Half) : isZero h = true ↔ h.toNat % 2 ^ 15 = 0 := by
  have he := halfExp_toNat h
  have hm := halfSig_toNat h
  rw [isZero_iff, ← BitVec.toNat_inj, ← BitVec.toNat_inj, he, hm, BitVec.toNat_ofNat, BitVec.toNat_ofNat]
  omega

theorem isNaN_s2h_iff (f : Single) : isNaN (s2h f) = true ↔ 0x7F800000 < f.toNat % 2 ^ 31 := by
  constructor
  · intro hn
    by_contra hle
    exact absurd ((half_isNaN_iff _).mp hn) (Nat.not_lt.mpr (s2h_magnitude_le (Nat.not_lt.mp hle)))
  · intro hnan
    obtain ⟨he, hm⟩ := (single_isNaN_iff f).mpr hnan
    rw [s2h_of_infNaN he, s2hInfNaN_of_ne_zero _ hm, isNaN_iff, halfExp_packHalf, halfSig_packHalf]
    exact ⟨rfl, fun hz => absurd (BitVec.or_eq_zero_iff.mp hz).2 (by decide)⟩

theorem isInf_s2h_iff (f : Single) :
    isInf (s2h f) 0#4 = true ↔ 0x477FF000 ≤ f.toNat % 2 ^ 31 ∧ f.toNat % 2 ^ 31 ≤ 0x7F800000 := by
  rw [half_isInf_iff]
  obtain hle | hnan := le_or_gt (f.toNat % 2 ^ 31) 0x7F800000
  · rw [s2h_magnitude hle, s2hMagnitude_eq_infinity_iff, and_iff_left hle]
  · have hmag := (half_isNaN_iff _).mp ((isNaN_s2h_iff f).mpr hnan)
    omega

theorem isZero_s2h_iff (f : Single) : isZero (s2h f) = true ↔ f.toNat % 2 ^ 31 ≤ 0x33000000 := by
  rw [half_isZero_iff]
  obtain hle | hnan := le_or_gt (f.toNat % 2 ^ 31) 0x7F800000
  · rw [s2h_magnitude hle, s2hMagnitude_eq_zero_iff]
  · have hmag := (half_isNaN_iff _).mp ((isNaN_s2h_iff f).mpr hnan)
    omega

/-- A half is signalling exactly when quieting changes it. -/
theorem quieted_eq_self_iff (h : Half) : quieted h = h ↔ ¬ (isNaN h = true ∧ h.getLsbD 9 = false) := by
  constructor
  · rintro heq ⟨hn, hb⟩
    rw [quieted_of_nan hn] at heq
    have hbit : (h ||| 0x0200#16).getLsbD 9 = true := by rw [BitVec.getLsbD_or]; exact Bool.or_true _
    rw [heq, hb] at hbit
    exact Bool.false_ne_true hbit
  · intro hq
    apply quieted_eq_self
    cases hn : isNaN h with
    | false => exact .inl rfl
    | true => exact .inr (Bool.eq_true_of_not_eq_false fun hb => hq ⟨hn, hb⟩)

/-- The image of S2H is what quieting keeps (R187). -/
theorem s2h_image (h : Half) : (∃ f, s2h f = h) ↔ quieted h = h := by
  constructor
  · rintro ⟨f, rfl⟩
    exact quieted_s2h f
  · intro hq
    exact ⟨h2s false h, (s2h_h2s false h).trans hq⟩

end Sys2Proof.Machine

namespace Sys2Proof.Proofs.SingleToHalfResults

open Sys2Proof.Machine

/-- Settles O40: the magnitude of the result is a monotone function of the magnitude pattern. -/
theorem s2hIsMonotone : Obligations.S2hIsMonotone := by
  intro f g _ hle hg
  rw [s2h_magnitude (hle.trans hg), s2h_magnitude hg]
  exact s2hMagnitude_mono hle

/-- Settles O41: each row of R132 by its two ends. -/
theorem s2hThresholds : Obligations.S2hThresholds := by
  intro f g r
  have row (lo hi k : Nat) (hk : s2hMagnitude lo = k ∧ s2hMagnitude hi = k) (hhi : hi ≤ 0x7F800000) (h : lo ≤ g) (h' : g ≤ hi) :
      r = k := (s2h_magnitude (h'.trans hhi)).trans (s2hMagnitude_eq_of_ends hk.1 hk.2 h h')
  have point (lo k : Nat) (hk : s2hMagnitude lo = k) (hlo : lo ≤ 0x7F800000) (h : g = lo) : r = k :=
    row lo lo k ⟨hk, hk⟩ hlo h.ge h.le
  exact ⟨row 0 _ _ (by decide) (by decide) (Nat.zero_le g), row _ _ _ (by decide) (by decide),
    point _ _ (by decide) (by decide), point _ _ (by decide) (by decide), point _ _ (by decide) (by decide),
    row _ _ _ (by decide) (by decide), row _ _ _ (by decide) (by decide), row _ _ _ (by decide) (by decide),
    row _ _ _ (by decide) (by decide), row _ _ _ (by decide) (by decide)⟩

/-- Settles O42: the classes by the magnitude of the result, and the image by the round trip from the half. -/
theorem s2hClasses : Obligations.S2hClasses := by
  refine ⟨fun f => ⟨isNaN_s2h_iff f, fun hn => ?_, isInf_s2h_iff f, isZero_s2h_iff f⟩, fun h => ?_⟩
  · by_contra hb
    exact (quieted_eq_self_iff _).mp (quieted_s2h f) ⟨hn, Bool.eq_false_iff.mpr hb⟩
  · rw [s2h_image, quieted_eq_self_iff]

end Sys2Proof.Proofs.SingleToHalfResults
end

section
/-! PROOFS. S2H as a function of numbers (`41_single_to_half.md` R133): round to nearest, ties to even, overflow to infinity. -/

namespace Sys2Proof.Machine

/-! The number of a magnitude pattern (R15), in units of the smallest subnormal of its format -/

/-- The magnitude a pattern `k` with `p` significand bits denotes, as a multiple of the smallest subnormal. -/
def patternUnits (p k : Nat) : Nat :=
  if k / 2 ^ p = 0 then k else (2 ^ p + k % 2 ^ p) * 2 ^ (k / 2 ^ p - 1)

theorem patternUnits_of_subnormal {p k : Nat} (h : k / 2 ^ p = 0) : patternUnits p k = k := if_pos h

theorem patternUnits_of_normal {p k : Nat} (h : k / 2 ^ p ≠ 0) :
    patternUnits p k = (2 ^ p + k % 2 ^ p) * 2 ^ (k / 2 ^ p - 1) := if_neg h

/-- The significand with its implicit bit may be carried one place beyond its binade, or fall below it in the lowest one. -/
theorem patternUnits_add {p t r : Nat} (hr : r ≤ 2 ^ p * 2) (hlow : t = 0 ∨ 2 ^ p ≤ r) :
    patternUnits p (t * 2 ^ p + r) = r * 2 ^ t := by
  have hp := Nat.two_pow_pos p
  obtain hsmall | ⟨hmid, hlt⟩ | rfl : r < 2 ^ p ∨ (2 ^ p ≤ r ∧ r < 2 ^ p * 2) ∨ r = 2 ^ p * 2 := by omega
  · obtain rfl : t = 0 := by omega
    rw [Nat.zero_mul, Nat.zero_add, patternUnits_of_subnormal (Nat.div_eq_of_lt hsmall), Nat.pow_zero, Nat.mul_one]
  · have hk : t * 2 ^ p + r = (r - 2 ^ p) + (t + 1) * 2 ^ p := by rw [Nat.add_one_mul]; omega
    have hfrac : r - 2 ^ p < 2 ^ p := by omega
    have hdiv : (t * 2 ^ p + r) / 2 ^ p = t + 1 := by
      rw [hk, Nat.add_mul_div_right _ _ hp, Nat.div_eq_of_lt hfrac, Nat.zero_add]
    have hmod : (t * 2 ^ p + r) % 2 ^ p = r - 2 ^ p := by rw [hk, Nat.add_mul_mod_self_right, Nat.mod_eq_of_lt hfrac]
    rw [patternUnits_of_normal (by omega), hdiv, hmod, Nat.add_sub_cancel' hmid, Nat.add_sub_cancel]
  · have hk : t * 2 ^ p + 2 ^ p * 2 = (t + 2) * 2 ^ p := by rw [Nat.add_mul, Nat.mul_comm 2]
    have hdiv : (t * 2 ^ p + 2 ^ p * 2) / 2 ^ p = t + 2 := by rw [hk, Nat.mul_div_cancel _ hp]
    rw [patternUnits_of_normal (by omega), hdiv, hk, Nat.mul_mod_left, Nat.add_zero, Nat.mul_assoc, ← Nat.pow_succ']
    rfl

theorem patternUnits_lt_succ (p k : Nat) : patternUnits p k < patternUnits p (k + 1) := by
  have hp := Nat.two_pow_pos p
  have hmod := Nat.mod_lt k hp
  have hk := Nat.div_add_mod' k (2 ^ p)
  cases hexp : k / 2 ^ p with
  | zero =>
    rw [hexp] at hk
    have hthis := patternUnits_add (p := p) (t := 0) (r := k) (by omega) (.inl rfl)
    have hnext := patternUnits_add (p := p) (t := 0) (r := k + 1) (by omega) (.inl rfl)
    rw [Nat.zero_mul, Nat.zero_add, Nat.pow_zero, Nat.mul_one] at hthis hnext
    omega
  | succ t =>
    rw [hexp, Nat.add_one_mul] at hk
    have hthis := patternUnits_add (p := p) (t := t) (r := 2 ^ p + k % 2 ^ p) (by omega) (.inr (by omega))
    have hnext := patternUnits_add (p := p) (t := t) (r := 2 ^ p + k % 2 ^ p + 1) (by omega) (.inr (by omega))
    rw [← Nat.add_assoc, hk] at hthis
    rw [← Nat.add_assoc, ← Nat.add_assoc, hk] at hnext
    rw [hthis, hnext]
    exact Nat.mul_lt_mul_of_pos_right (Nat.lt_succ_self _) (Nat.two_pow_pos t)

theorem patternUnits_strictMono (p : Nat) : StrictMono (patternUnits p) := strictMono_nat_of_lt_succ (patternUnits_lt_succ p)

/-- A half is a multiple of `2^t` smallest subnormals, or smaller than the binade in which that is the last place. -/
theorem patternUnits_dvd_or_lt (p t k : Nat) : 2 ^ t ∣ patternUnits p k ∨ patternUnits p k < 2 ^ p * 2 ^ t := by
  have hp := Nat.two_pow_pos p
  by_cases h0 : k / 2 ^ p = 0
  · rw [patternUnits_of_subnormal h0]
    have hk : k < 2 ^ p := by rwa [Nat.div_eq_zero_iff_lt hp] at h0
    exact .inr (hk.trans_le (Nat.le_mul_of_pos_right _ (Nat.two_pow_pos t)))
  · rw [patternUnits_of_normal h0]
    obtain hle | hlt := le_or_gt t (k / 2 ^ p - 1)
    · exact .inl (Dvd.dvd.mul_left (Nat.pow_dvd_pow 2 hle) _)
    · have hsig : 2 ^ p + k % 2 ^ p < 2 ^ p * 2 := by have := Nat.mod_lt k hp; omega
      refine .inr ((Nat.mul_lt_mul_of_pos_right hsig (Nat.two_pow_pos _)).trans_le ?_)
      rw [Nat.mul_assoc, ← Nat.pow_succ']
      exact Nat.mul_le_mul_left _ (Nat.pow_le_pow_right Nat.two_pos hlt)

theorem halfMagnitude_eq (h : Half) :
    halfMagnitude (halfExp h) (halfSig h) = patternUnits 10 (h.toNat % 2 ^ 15) * 2 ^ (-24 : ℤ) := by
  have he : (halfExp h).toNat = h.toNat % 2 ^ 15 / 2 ^ 10 := by rw [halfExp_toNat]; omega
  have hm : (halfSig h).toNat = h.toNat % 2 ^ 15 % 2 ^ 10 := by rw [halfSig_toNat]; omega
  have hzero : halfExp h = 0#5 ↔ h.toNat % 2 ^ 15 / 2 ^ 10 = 0 := by rw [← he]; bv_omega
  rw [halfMagnitude, patternUnits]
  by_cases h0 : h.toNat % 2 ^ 15 / 2 ^ 10 = 0
  · rw [if_pos (hzero.mpr h0), if_pos h0, hm, Nat.mod_eq_of_lt (by omega)]
  · have hpow : ((halfExp h).toNat : ℤ) - 25 = ((h.toNat % 2 ^ 15 / 2 ^ 10 - 1 : ℕ) : ℤ) + (-24) := by omega
    rw [if_neg (mt hzero.mp h0), if_neg h0, hpow, zpow_add₀ two_ne_zero, zpow_natCast, hm, ← mul_assoc]
    push_cast
    rfl

theorem singleMagnitude_eq (f : Single) :
    singleMagnitude (singleExp f) (singleSig f) = patternUnits 23 (f.toNat % 2 ^ 31) * 2 ^ (-149 : ℤ) := by
  have he : (singleExp f).toNat = f.toNat % 2 ^ 31 / 2 ^ 23 := by rw [singleExp_toNat]; omega
  have hm : (singleSig f).toNat = f.toNat % 2 ^ 31 % 2 ^ 23 := by rw [singleSig_toNat]; omega
  have hzero : singleExp f = 0#8 ↔ f.toNat % 2 ^ 31 / 2 ^ 23 = 0 := by rw [← he]; bv_omega
  rw [singleMagnitude, patternUnits]
  by_cases h0 : f.toNat % 2 ^ 31 / 2 ^ 23 = 0
  · rw [if_pos (hzero.mpr h0), if_pos h0, hm, Nat.mod_eq_of_lt (by omega)]
  · have hpow : ((singleExp f).toNat : ℤ) - 150 = ((f.toNat % 2 ^ 31 / 2 ^ 23 - 1 : ℕ) : ℤ) + (-149) := by omega
    rw [if_neg (mt hzero.mp h0), if_neg h0, hpow, zpow_add₀ two_ne_zero, zpow_natCast, hm, ← mul_assoc]
    push_cast
    rfl

/-! Nearest integers, ties to even -/

/-- No integer is nearer to `x` than `r`, and `r` is even where another is as near. -/
def NearestEven (x : ℚ) (r : Nat) : Prop :=
  ∀ z : ℤ, |(r : ℚ) - x| ≤ |(z : ℚ) - x| ∧ (|(r : ℚ) - x| = |(z : ℚ) - x| → (z : ℚ) ≠ r → r % 2 = 0)

/-- An integer at most a half away is nearest, for every other is a half away at least. -/
theorem nearestEven_of_le_half {x : ℚ} {r : Nat} (hle : |(r : ℚ) - x| ≤ 1 / 2) (heven : |(r : ℚ) - x| = 1 / 2 → r % 2 = 0) :
    NearestEven x r := by
  intro z
  by_cases hz : z = r
  · subst hz
    exact ⟨le_refl _, fun _ hne => absurd rfl hne⟩
  · have hone : (1 : ℚ) ≤ |(z : ℚ) - r| := by
      have hint : (1 : ℤ) ≤ |z - r| := Int.one_le_abs (sub_ne_zero.mpr hz)
      exact_mod_cast hint
    have htri : |(z : ℚ) - r| ≤ |(z : ℚ) - x| + |(r : ℚ) - x| := by
      rw [abs_sub_comm (r : ℚ) x]
      exact abs_sub_le _ _ _
    exact ⟨by linarith, fun heq _ => heven (by linarith)⟩

theorem cast_div_two_pow (c n : Nat) : (c : ℚ) / 2 ^ n = (c / 2 ^ n : ℕ) + ((c % 2 ^ n : ℕ) : ℚ) / 2 ^ n := by
  have hpos : (0 : ℚ) < 2 ^ n := by positivity
  rw [div_eq_iff hpos.ne', add_mul, div_mul_cancel₀ _ hpos.ne']
  exact_mod_cast (Nat.div_add_mod' c (2 ^ n)).symm

theorem div_two_pow_le_half_iff (d n : Nat) : (d : ℚ) / 2 ^ n ≤ 1 / 2 ↔ 2 * d ≤ 2 ^ n := by
  rw [div_le_div_iff₀ (by positivity) two_pos, one_mul, mul_comm]
  exact_mod_cast Iff.rfl

theorem half_le_div_two_pow_iff (d n : Nat) : 1 / 2 ≤ (d : ℚ) / 2 ^ n ↔ 2 ^ n ≤ 2 * d := by
  rw [div_le_div_iff₀ two_pos (by positivity), one_mul, mul_comm]
  exact_mod_cast Iff.rfl

/-- The rounding of R128 is to nearest, ties to even. -/
theorem nearestEven_roundShift (c : Nat) {n : Nat} (hn : 1 ≤ n) : NearestEven ((c : ℚ) / 2 ^ n) (roundShift c n) := by
  have hup := roundUp_eq_one_iff c hn
  have hle := roundUp_le_one c n
  obtain h0 | h1 : roundUp c n = 0 ∨ roundUp c n = 1 := by omega
  · have hdist : |((roundShift c n : ℕ) : ℚ) - c / 2 ^ n| = ((c % 2 ^ n : ℕ) : ℚ) / 2 ^ n := by
      rw [roundShift, h0, Nat.add_zero, cast_div_two_pow, sub_add_cancel_left, abs_neg, abs_of_nonneg (by positivity)]
    have hd := (div_two_pow_le_half_iff (c % 2 ^ n) n).mpr (by omega)
    refine nearestEven_of_le_half (hdist.trans_le hd) fun htie => ?_
    have htie' := (half_le_div_two_pow_iff _ n).mp (hdist.symm.trans htie).ge
    rw [roundShift]; omega
  · have hd := (half_le_div_two_pow_iff (c % 2 ^ n) n).mpr (by omega)
    have hlt : ((c % 2 ^ n : ℕ) : ℚ) / 2 ^ n < 1 := by
      rw [div_lt_one (by positivity)]
      exact_mod_cast Nat.mod_lt c (Nat.two_pow_pos n)
    have hdist : |((roundShift c n : ℕ) : ℚ) - c / 2 ^ n| = 1 - ((c % 2 ^ n : ℕ) : ℚ) / 2 ^ n := by
      rw [roundShift, h1, cast_div_two_pow, Nat.cast_add, Nat.cast_one, add_sub_add_left_eq_sub, abs_of_nonneg (by linarith)]
    refine nearestEven_of_le_half (by rw [hdist]; linarith) fun htie => ?_
    have htie' := (div_two_pow_le_half_iff (c % 2 ^ n) n).mp (by rw [hdist] at htie; linarith)
    rw [roundShift]; omega

/-! Where the magnitude lies: the thresholds of R132 as numbers -/

theorem units_le_units_iff (g g' : Nat) :
    (patternUnits 23 g : ℚ) * 2 ^ (-149 : ℤ) ≤ patternUnits 23 g' * 2 ^ (-149 : ℤ) ↔ g ≤ g' := by
  rw [mul_le_mul_iff_left₀ (by positivity), Nat.cast_le, (patternUnits_strictMono 23).le_iff_le]

theorem overflow_threshold : (65520 : ℚ) = patternUnits 23 0x477FF000 * 2 ^ (-149 : ℤ) := by
  have hunits : patternUnits 23 0x477FF000 = 65520 * 2 ^ 149 := by decide
  rw [hunits]
  norm_num

theorem flush_threshold : (2 : ℚ) ^ (-25 : ℤ) = patternUnits 23 0x33000000 * 2 ^ (-149 : ℤ) := by
  have hunits : patternUnits 23 0x33000000 = 2 ^ 124 := by decide
  rw [hunits]
  norm_num

/-- Up to the flush threshold a magnitude is at most half a smallest subnormal half. -/
theorem magnitude_le_half_unit {g : Nat} (h : g ≤ 0x33000000) :
    (patternUnits 23 g : ℚ) * 2 ^ (-149 : ℤ) * 2 ^ 24 ≤ 1 / 2 := by
  have hunit : (2 : ℚ) ^ (-25 : ℤ) * 2 ^ 24 = 1 / 2 := by norm_num
  have hsmall := (units_le_units_iff g 0x33000000).mpr h
  rw [← flush_threshold] at hsmall
  exact hunit ▸ mul_le_mul_of_nonneg_right hsmall (by positivity)

/-! What S2H answers below the overflow threshold -/

/-- A significand of `a + 1` as exponent field, in the last place `2^t` of the half it is shifted right by `n` to. -/
theorem significand_mul_unit (c : Nat) {a n t : Nat} (h : a + n = t + 125) :
    ((c * 2 ^ a : ℕ) : ℚ) * 2 ^ (-149 : ℤ) = c / 2 ^ n * 2 ^ t * 2 ^ (-24 : ℤ) := by
  have hpow : (2 : ℚ) ^ a * 2 ^ n = 2 ^ t * 2 ^ 125 := by rw [← pow_add, ← pow_add, h]
  have hunit : (2 : ℚ) ^ (-24 : ℤ) = 2 ^ 125 * 2 ^ (-149 : ℤ) := by norm_num
  rw [Nat.cast_mul, Nat.cast_pow, Nat.cast_ofNat, hunit, ← mul_assoc, mul_assoc (_ / _), ← hpow, mul_comm ((2 : ℚ) ^ a),
    ← mul_assoc, div_mul_cancel₀ _ (by positivity)]

/-- Below the overflow threshold the result is the magnitude rounded at the last place of its binade, `2^t` smallest subnormals, the
significand being at least `2^10` there unless the binade is the lowest. -/
theorem s2hMagnitude_nearest {g : Nat} (h : g < 0x477FF000) :
    ∃ (t r : Nat) (x : ℚ), (patternUnits 23 g : ℚ) * 2 ^ (-149 : ℤ) = x * 2 ^ t * 2 ^ (-24 : ℤ) ∧ NearestEven x r ∧
      s2hMagnitude g = t * 2 ^ 10 + r ∧ r ≤ 2 ^ 10 * 2 ∧ (t = 0 ∨ (2 ^ 10 ≤ r ∧ 1024 ≤ x)) := by
  obtain hflush | ⟨hlo, hhi⟩ | ⟨hlo, hhi⟩ : g / 2 ^ 23 ≤ 101 ∨ (102 ≤ g / 2 ^ 23 ∧ g / 2 ^ 23 ≤ 112) ∨
      (113 ≤ g / 2 ^ 23 ∧ g / 2 ^ 23 ≤ 142) := by omega
  · have hle := magnitude_le_half_unit (g := g) (by omega)
    refine ⟨0, 0, patternUnits 23 g * 2 ^ (-149 : ℤ) * 2 ^ 24, ?_, nearestEven_of_le_half ?_ fun _ => rfl,
      s2hMagnitude_of_flush hflush, Nat.zero_le _, .inl rfl⟩
    · have hone : (2 : ℚ) ^ 24 * 2 ^ (-24 : ℤ) = 1 := by norm_num
      rw [pow_zero, mul_one, mul_assoc _ ((2 : ℚ) ^ 24), hone, mul_one]
    · rwa [Nat.cast_zero, zero_sub, abs_neg, abs_of_nonneg (by positivity)]
  · have hmono := s2hMagnitude_mono (show g ≤ 0x387FFFFF by omega)
    have htop : s2hMagnitude 0x387FFFFF = 0x400 := by decide
    rw [htop, s2hMagnitude_of_underflow hlo hhi] at hmono
    refine ⟨0, _, _, ?_, nearestEven_roundShift (0x800000 + g % 2 ^ 23) (n := 126 - g / 2 ^ 23) (by omega), ?_, by omega,
      .inl rfl⟩
    · rw [patternUnits_of_normal (by omega)]
      exact significand_mul_unit _ (by omega)
    · rw [s2hMagnitude_of_underflow hlo hhi, Nat.zero_mul, Nat.zero_add]
  · have hle := le_roundShift (0x800000 + g % 2 ^ 23) 13
    have hge := roundShift_le (0x800000 + g % 2 ^ 23) 13
    refine ⟨g / 2 ^ 23 - 113, _, _, ?_, nearestEven_roundShift (0x800000 + g % 2 ^ 23) (n := 13) (by decide), ?_, by omega,
      .inr ⟨by omega, ?_⟩⟩
    · rw [patternUnits_of_normal (by omega)]
      exact significand_mul_unit _ (by omega)
    · have hg : g - 112 * 2 ^ 23 = (g / 2 ^ 23 - 113) * 2 ^ 9 * 2 * 2 ^ 13 + (0x800000 + g % 2 ^ 23) := by omega
      rw [s2hMagnitude_of_normal hlo hhi, hg, roundShift_add_mul _ _ (by decide), Nat.mul_assoc]
      rfl
    · rw [le_div_iff₀ (by positivity)]
      have hsig : 1024 * 2 ^ 13 ≤ 0x800000 + g % 2 ^ 23 := by omega
      exact_mod_cast hsig

/-- No multiple of the last place is nearer, and whatever is no multiple of it lies below the binade. -/
theorem nearest_of_multiples {t r : Nat} {x : ℚ} (hx : NearestEven x r) (hlow : t = 0 ∨ 1024 ≤ x) {w : ℤ}
    (hw : (2 : ℤ) ^ t ∣ w ∨ w < 1024 * 2 ^ t) :
    |(r : ℚ) * 2 ^ t - x * 2 ^ t| ≤ |(w : ℚ) - x * 2 ^ t| ∧
      (|(r : ℚ) * 2 ^ t - x * 2 ^ t| = |(w : ℚ) - x * 2 ^ t| → (w : ℚ) ≠ r * 2 ^ t → r % 2 = 0) := by
  have hpos : (0 : ℚ) < 2 ^ t := by positivity
  have hscale (y : ℚ) : |y * 2 ^ t - x * 2 ^ t| = |y - x| * 2 ^ t := by rw [← sub_mul, abs_mul, abs_of_pos hpos]
  by_cases hdvd : (2 : ℤ) ^ t ∣ w
  · obtain ⟨z, rfl⟩ := hdvd
    obtain ⟨hle, htie⟩ := hx z
    have hcast : (((2 : ℤ) ^ t * z : ℤ) : ℚ) = z * 2 ^ t := by push_cast; ring
    rw [hcast, hscale, hscale]
    exact ⟨mul_le_mul_of_nonneg_right hle hpos.le,
      fun heq hne => htie (mul_right_cancel₀ hpos.ne' heq) fun hz => hne (by rw [hz])⟩
  · have hlt : (w : ℚ) < 1024 * 2 ^ t := by exact_mod_cast hw.resolve_left hdvd
    have hbase : 1024 ≤ x := hlow.resolve_left fun h0 => hdvd (by rw [h0, pow_zero]; exact one_dvd w)
    have hxbase : 1024 * 2 ^ t ≤ x * 2 ^ t := mul_le_mul_of_nonneg_right hbase hpos.le
    have hnear : |(r : ℚ) * 2 ^ t - x * 2 ^ t| ≤ x * 2 ^ t - 1024 * 2 ^ t := by
      have hz := (hx 1024).1
      push_cast at hz
      rw [hscale, ← sub_mul]
      refine mul_le_mul_of_nonneg_right (hz.trans_eq ?_) hpos.le
      rw [abs_sub_comm, abs_of_nonneg (sub_nonneg.mpr hbase)]
    have hfar : |(w : ℚ) - x * 2 ^ t| = x * 2 ^ t - w := by
      rw [abs_sub_comm, abs_of_pos (by linarith)]
    rw [hfar]
    exact ⟨by linarith, fun heq => by linarith⟩

/-! Numbers of halves and singles, with their signs -/

/-- In smallest subnormals the number of a finite half is an integer, and for every `t` a multiple of `2^t` or smaller than the binade
above. -/
theorem half_number_units {h : Half} {u : ℚ} (hu : (halfValue h).number = some u) :
    ∃ w : ℤ, u = w * 2 ^ (-24 : ℤ) ∧ ∀ t, (2 : ℤ) ^ t ∣ w ∨ |w| < 1024 * 2 ^ t := by
  have hunits (t : Nat) : (2 : ℤ) ^ t ∣ (patternUnits 10 (h.toNat % 2 ^ 15) : ℤ) ∨
      |(patternUnits 10 (h.toNat % 2 ^ 15) : ℤ)| < 1024 * 2 ^ t := by
    rw [Nat.abs_cast]
    exact_mod_cast patternUnits_dvd_or_lt 10 t (h.toNat % 2 ^ 15)
  by_cases he : halfExp h = 31#5
  · rw [halfValue, if_pos he] at hu
    split at hu <;> cases hu
  · rw [halfValue_of_finite he, halfMagnitude_eq] at hu
    cases hneg : halfSign h == 1#1 with
    | false =>
      rw [hneg] at hu
      cases hu
      exact ⟨_, rfl, hunits⟩
    | true =>
      rw [hneg] at hu
      cases hu
      refine ⟨-patternUnits 10 (h.toNat % 2 ^ 15), by push_cast; exact (neg_mul _ _).symm, fun t => ?_⟩
      rw [dvd_neg, abs_neg]
      exact hunits t

theorem singleValue_eq_infinity {f : Single} {neg : Bool} (h : singleValue f = .infinity neg) :
    f.toNat % 2 ^ 31 = 0x7F800000 ∧ neg = (singleSign f == 1#1) := by
  have hexp := singleExp_toNat f
  have hsig := singleSig_toNat f
  rw [singleValue] at h
  split_ifs at h with he hm
  rw [he, BitVec.toNat_ofNat] at hexp
  rw [hm, BitVec.toNat_ofNat] at hsig
  cases h
  exact ⟨by omega, rfl⟩

theorem singleValue_eq_finite {f : Single} {neg : Bool} {m : ℚ} (h : singleValue f = .finite neg m) :
    f.toNat % 2 ^ 31 < 0x7F800000 ∧ neg = (singleSign f == 1#1) ∧
      m = patternUnits 23 (f.toNat % 2 ^ 31) * 2 ^ (-149 : ℤ) := by
  have hexp := singleExp_toNat f
  rw [singleValue] at h
  split_ifs at h with he
  rw [← BitVec.toNat_inj, hexp, BitVec.toNat_ofNat] at he
  cases h
  exact ⟨by omega, rfl, singleMagnitude_eq f⟩

theorem halfValue_s2h_of_isInf {f : Single} (h : isInf (s2h f) 0#4 = true) :
    halfValue (s2h f) = .infinity (singleSign f == 1#1) := by
  obtain ⟨he, hm⟩ := (isInf_zero_iff _).mp h
  rw [halfValue_of_infinity he hm, halfSign_s2h]

theorem halfValue_s2h_of_isZero {f : Single} (h : isZero (s2h f) = true) :
    halfValue (s2h f) = .finite (singleSign f == 1#1) 0 := by
  obtain ⟨he, hm⟩ := (isZero_iff _).mp h
  have hzero : halfMagnitude 0#5 0#10 = 0 := by simp [halfMagnitude]
  rw [halfValue_of_finite (by rw [he]; decide), he, hm, hzero, halfSign_s2h]

/-- Below the overflow threshold S2H answers the finite half of the rounded magnitude. -/
theorem halfValue_s2h_of_lt {f : Single} {t r : Nat} (h : f.toNat % 2 ^ 31 < 0x477FF000)
    (hmag : s2hMagnitude (f.toNat % 2 ^ 31) = t * 2 ^ 10 + r) (hr : r ≤ 2 ^ 10 * 2) (hlow : t = 0 ∨ 2 ^ 10 ≤ r) :
    halfValue (s2h f) = .finite (singleSign f == 1#1) (r * 2 ^ t * 2 ^ (-24 : ℤ)) := by
  have hs2h := s2h_magnitude (f := f) (by omega)
  have hne : s2hMagnitude (f.toNat % 2 ^ 31) ≠ 0x7C00 := mt (s2hMagnitude_eq_infinity_iff _).mp (by omega)
  have hle := s2hMagnitude_le_infinity (f.toNat % 2 ^ 31)
  have hexp : halfExp (s2h f) ≠ 31#5 := by
    have := halfExp_toNat (s2h f)
    bv_omega
  rw [halfValue_of_finite hexp, halfSign_s2h, halfMagnitude_eq, hs2h, hmag, patternUnits_add hr hlow, Nat.cast_mul, Nat.cast_pow,
    Nat.cast_ofNat]

theorem getLsbD_zero_s2h {f : Single} {t r : Nat} (h : f.toNat % 2 ^ 31 ≤ 0x7F800000)
    (hmag : s2hMagnitude (f.toNat % 2 ^ 31) = t * 2 ^ 10 + r) (hr : r % 2 = 0) : (s2h f).getLsbD 0 = false := by
  have hs2h := s2h_magnitude h
  rw [Bool.eq_false_iff, Ne, getLsbD_iff_div_mod]
  omega

/-- The same of numbers: `w` smallest subnormals. -/
theorem nearest_of_units {t r : Nat} {x : ℚ} (hx : NearestEven x r) (hlow : t = 0 ∨ 1024 ≤ x) {w : ℤ}
    (hw : (2 : ℤ) ^ t ∣ w ∨ w < 1024 * 2 ^ t) :
    |(r : ℚ) * 2 ^ t * 2 ^ (-24 : ℤ) - x * 2 ^ t * 2 ^ (-24 : ℤ)| ≤ |(w : ℚ) * 2 ^ (-24 : ℤ) - x * 2 ^ t * 2 ^ (-24 : ℤ)| ∧
      (|(r : ℚ) * 2 ^ t * 2 ^ (-24 : ℤ) - x * 2 ^ t * 2 ^ (-24 : ℤ)| =
          |(w : ℚ) * 2 ^ (-24 : ℤ) - x * 2 ^ t * 2 ^ (-24 : ℤ)| →
        (w : ℚ) * 2 ^ (-24 : ℤ) ≠ r * 2 ^ t * 2 ^ (-24 : ℤ) → r % 2 = 0) := by
  have hpos : (0 : ℚ) < 2 ^ (-24 : ℤ) := by positivity
  have hscale (y z : ℚ) : |y * 2 ^ (-24 : ℤ) - z * 2 ^ (-24 : ℤ)| = |y - z| * 2 ^ (-24 : ℤ) := by
    rw [← sub_mul, abs_mul, abs_of_pos hpos]
  obtain ⟨hle, htie⟩ := nearest_of_multiples hx hlow hw
  rw [hscale, hscale]
  exact ⟨mul_le_mul_of_nonneg_right hle hpos.le,
    fun heq hne => htie (mul_right_cancel₀ hpos.ne' heq) fun hz => hne (by rw [hz])⟩

/-- No number of a half is nearer than the rounding of a number of the same sign, which is even where another is as near. -/
theorem nearest_of_half_number {t r : Nat} {x u v v' : ℚ} {neg : Bool} {h : Half} (hx : NearestEven x r)
    (hlow : t = 0 ∨ 1024 ≤ x) (hu : (halfValue h).number = some u)
    (hv : (Denoted.finite neg (x * 2 ^ t * 2 ^ (-24 : ℤ))).number = some v)
    (hv' : (Denoted.finite neg (r * 2 ^ t * 2 ^ (-24 : ℤ))).number = some v') :
    |v' - v| ≤ |u - v| ∧ (|v' - v| = |u - v| → u ≠ v' → r % 2 = 0) := by
  obtain ⟨w, rfl, hw⟩ := half_number_units hu
  cases neg with
  | false =>
    cases hv
    cases hv'
    exact nearest_of_units hx hlow ((hw t).imp_right (le_abs_self w).trans_lt)
  | true =>
    cases hv
    cases hv'
    obtain ⟨hle, htie⟩ := nearest_of_units hx hlow (w := -w) ((hw t).imp (dvd_neg.mpr ·) (neg_le_abs w).trans_lt)
    have hmirror (y z : ℚ) : |y - -z| = |-y - z| := by rw [← abs_neg]; congr 1; ring
    rw [Int.cast_neg, neg_mul] at hle htie
    rw [if_pos rfl, if_pos rfl, hmirror, hmirror, neg_neg]
    exact ⟨hle, fun heq hne => htie heq fun hz => hne (by rw [← hz, neg_neg])⟩

end Sys2Proof.Machine

namespace Sys2Proof.Proofs.SingleToHalfValue

open Sys2Proof.Machine

/-- Settles O39: below the overflow threshold the result is the magnitude rounded to an integer number of last places, and no half is
nearer, since halves are multiples of that place or lie below its binade; the two thresholds are patterns of the table of R132. -/
theorem s2hIsNearestEven : Obligations.S2hIsNearestEven := by
  intro f neg
  constructor
  · intro hinf
    obtain ⟨hg, rfl⟩ := singleValue_eq_infinity hinf
    exact halfValue_s2h_of_isInf ((isInf_s2h_iff f).mpr (by omega))
  · intro m hm
    obtain ⟨hg, rfl, rfl⟩ := singleValue_eq_finite hm
    refine ⟨fun hlarge => ?_, fun hsmall => ?_, fun htiny => ?_⟩
    · rw [overflow_threshold, units_le_units_iff] at hlarge
      exact halfValue_s2h_of_isInf ((isInf_s2h_iff f).mpr (by omega))
    · rw [overflow_threshold, ← not_le, units_le_units_iff, not_le] at hsmall
      obtain ⟨t, r, x, hx, hnear, hmag, hr, hlow⟩ := s2hMagnitude_nearest hsmall
      have hvalue := halfValue_s2h_of_lt hsmall hmag hr (hlow.imp_right And.left)
      refine ⟨_, hvalue, fun h u v v' hu hv hv' => ?_⟩
      rw [hm, hx] at hv
      rw [hvalue] at hv'
      obtain ⟨hle, htie⟩ := nearest_of_half_number hnear (hlow.imp_right And.right) hu hv hv'
      exact ⟨hle, fun heq hne => getLsbD_zero_s2h hg.le hmag (htie heq hne)⟩
    · rw [flush_threshold, units_le_units_iff] at htiny
      exact halfValue_s2h_of_isZero ((isZero_s2h_iff f).mpr htiny)

end Sys2Proof.Proofs.SingleToHalfValue
end
